-- ==== Sys2Proof/Word.lean ====
section
/-! DEFINITION. The plain types every file shares: bytes, words, sparse tables. -/

namespace Sys2Proof

/-- One byte of memory. -/
abbrev Byte := BitVec 8
/-- A 16-bit value. -/
abbrev Half := BitVec 16
/-- A register word (R733). -/
abbrev Word := BitVec 32
/-- A device address (R40). -/
abbrev Addr := BitVec 48
/-- A 64-bit value. -/
abbrev Quad := BitVec 64
/-- A hardware counter, 40 bits and wrapping (R123, R757). -/
abbrev Ctr := BitVec 40

/-- A sparse table: indices strictly rising, and no entry equal to the value an unlisted index holds.
`Sys2Proof.Machine.Tab.get` and `Sys2Proof.Machine.Tab.set` are its only reader and writer. -/
abbrev Tab (α : Type) := List (Nat × α)

/-- Memory bytes by address, in the same form. -/
abbrev Mem := Tab Byte

end Sys2Proof
end

