-- ==== Sys2Proof/Syntax.lean ====
section
/-! DEFINITION. The commands of the block: one constructor of `Instr` for each row of spec/opcode_table.json, with the
operands the row's event carries. -/

namespace Sys2Proof

/-- The paths that reach the register file (R719); each has a context of its own (R720). -/
inductive Path where
  | bus
  | tap
  | onchip
  | port (p : Fin 8)
deriving DecidableEq, Repr

/-- A write of one register word. A management-bus write gives the low half only, the high half coming from the
holding register (R732); every other path gives the whole word. -/
inductive WrAcc where
  | busLow (lo : Half)
  | word (p : Path) (v : Word)
deriving DecidableEq, Repr

/-- A Skouk frame (R514) as it arrives or leaves; `crcOk` is the outcome of its CRC-32C check. -/
structure SkFrame where
  port : Fin 8 := 0
  dmac : BitVec 48 := 0
  smac : BitVec 48 := 0
  ver : Byte := 1
  ty : Byte := 0
  src : Byte := 0
  dst : Byte := 0
  seq : Word := 0
  ack : Word := 0
  flags : Byte := 0
  sys : Byte := 0
  bepoch : Word := 0
  lgen : Word := 0
  param : List Byte := []
  payload : List Byte := []
  crcOk : Bool := true
deriving DecidableEq, Repr

/-- An AVTP frame (R495, R541): subtype, stream ID, sequence number, timestamp and the sixteen header bytes of R539. -/
structure AvtpFrame where
  aaf : Bool := true
  sid : Quad := 0
  seqNum : Word := 0
  tstamp : Quad := 0
  aafh : List Byte := []
  payload : List Byte := []
deriving DecidableEq, Repr

/-- What an Ethernet frame carries. -/
inductive EthBody where
  | skouk (f : SkFrame)
  | avtp (f : AvtpFrame)
  | other (payload : List Byte)
deriving DecidableEq, Repr

/-- An Ethernet frame at a port (R498, R504, R507, R511). `len` includes the FCS (R498). -/
structure EthFrame where
  port : Fin 8 := 0
  dmac : BitVec 48 := 0
  smac : BitVec 48 := 0
  etype : Half := 0
  vid : BitVec 12 := 0
  pcp : BitVec 3 := 0
  /-- Drop eligible: a frame marked yellow (R509). -/
  dei : Bool := false
  len : Nat := 64
  fcsOk : Bool := true
  secured : Bool := false
  icvOk : Bool := true
  body : EthBody := .other []
deriving DecidableEq, Repr

/-- A fault report (R560). `source` is a code of R561; the tile fields are used by sources of context T. -/
structure Report where
  source : Fin 128
  inst : Nat := 0
  detail : Word := 0
  slot : Option (Fin 64) := none
  tile : Nat := 0
  epoch : BitVec 16 := 0
  queue : Byte := 0xFF
  inj : Bool := false
deriving DecidableEq, Repr

/-- A window write's header and data as a local writer issues them (R354, R357). -/
structure WinWrite where
  srcEng : Fin 24
  dstEng : Fin 24
  win : Fin 8
  wepoch : BitVec 16
  off : BitVec 32
  data : List Byte
  slot : Fin 64
  epoch : BitVec 16
deriving DecidableEq, Repr

/-- How a Granary access uses its line (R366). -/
inductive GAcc where
  | read
  | writeLine
  | writePart
deriving DecidableEq, Repr

/-- The data scan that follows a TAP instruction (R713). -/
inductive TapScan where
  | none
  | boundary (cells : List Bool)
  | readWord (index : Nat)
  | writeWord (index : Nat) (v : Word)
  | haltReeve (on : Bool)
  | stepReeve
deriving DecidableEq, Repr

/-- One command of the block. The comment after a constructor names the row's rule. -/
inductive Instr where
  -- the opcodes of a command list (R210): the Ledger entry whose command at CIDX is taken
  | nop (e : Fin 16384)                       -- R210
  | gemm (e : Fin 16384)                      -- R215
  | conv (e : Fin 16384)                      -- R300
  | dwconv (e : Fin 16384)                    -- R303
  | pool (e : Fin 16384)                      -- R316
  | boxpool (e : Fin 16384)                   -- R325
  | eltw (e : Fin 16384)                      -- R212
  | reduce (e : Fin 16384)                    -- R221
  | lut (e : Fin 16384)                       -- R210
  | copy (e : Fin 16384)                      -- R439
  | send (e : Fin 16384)                      -- R551
  | optim (e : Fin 16384)                     -- R173
  | stats (e : Fin 16384)                     -- R170
  | loadb (e : Fin 16384)                     -- R236
  | signal (e : Fin 16384)                    -- R238
  | wait (e : Fin 16384)                      -- R239
  | wopen (e : Fin 16384)                     -- R350
  | wclose (e : Fin 16384)                    -- R359
  | scrub (e : Fin 16384)                     -- R343
  | codebook (e : Fin 16384)                  -- R423
  | endList (e : Fin 16384)                   -- R192
  -- waits, commits and completions
  | barrierWaitEnd (e : Fin 16384)            -- R190
  | loaderWaitEnd (e : Fin 16384)             -- R244
  | waitTimeout (e : Fin 16384)               -- R241
  | tallySlotAssign                           -- R251
  | commandCommit (e : Fin 16384)             -- R468
  | completionPost (q : Fin 32)               -- R475
  -- the Tally and the engines
  | available (eng : Fin 24)                  -- R261
  | tallyClaim (eng : Fin 24)                 -- R257
  | grant (eng : Fin 24)                      -- R256
  | loadEnd (eng : Fin 24)                    -- R277
  | computeEnd (eng : Fin 24)                 -- R277
  | drainEnd (eng : Fin 24)                   -- R264
  | tallyDone (eng : Fin 24)                  -- R265
  | depositFold (slot : Fin 64)               -- R465
  | restamp (eng : Fin 24) (slot : Fin 64)    -- R267
  | restampAnswer (eng : Fin 24) (slot : Fin 64)   -- R268
  | eprioRaise (slot : Fin 64)                -- R274
  -- transfers, the Granary, the Mill, windows, scrubs
  | readDataArrival (eng : Fin 24) (sectors : Fin 5) (badTries : Fin 6)   -- R390, R21
  | writeAck (eng : Fin 24) (sectors : Fin 5)       -- R366
  | fencedAnswer (eng : Fin 24) (isWrite : Bool) (sectors : Fin 5)        -- R395
  | granaryAccess (addr : Addr) (cls : BitVec 2) (acc : GAcc)             -- R367
  | granaryFill (addr : Addr) (badReads : Fin 6)    -- R369, R24
  | blockExpand (eng : Fin 24) (base : Addr) (x : Word) (len : Word)      -- R429
  | windowWrite (w : WinWrite)                -- R354
  | windowClosed (eng : Fin 24) (win : Fin 8) -- R359
  | scrubEngine (eng : Fin 24)                -- R343
  | barnScrubber (eng : Fin 24)               -- R347
  -- submission
  | submit (f : SkFrame)                      -- R532
  | qtailWrite (a : WrAcc)                    -- R741
  | ringRetry (q : Fin 32)                    -- R55
  | qcheadWrite (a : WrAcc)                   -- R741
  | qcfgWrite (a : WrAcc)                     -- R740
  -- Skouk
  | rreg (f : SkFrame)                        -- R525
  | wreg (f : SkFrame)                        -- R526
  | rmem (f : SkFrame)                        -- R527
  | wmem (f : SkFrame)                        -- R527
  | wwin (f : SkFrame)                        -- R557
  | sendFrameReceive (f : SkFrame)            -- R554
  | wack (f : SkFrame)                        -- R556
  | wnak (f : SkFrame)                        -- R556
  | sendRangeRetry (dev : Fin 64) (ssn : BitVec 48)   -- R556
  | ack (f : SkFrame)                         -- R521
  | ackTimer (ep : Fin 128)                   -- R519
  | resendTimeout (ep : Fin 128)              -- R521
  | join (f : SkFrame)                        -- R523
  | hello (f : SkFrame)                       -- R545
  | helloSend                                 -- R545
  | peerLost (dev : Fin 64)                   -- R549
  -- streams, the Market, links, time
  | stream (fr : EthFrame)                    -- R541
  | aafFrame (fr : EthFrame)                  -- R540
  | triggeredSubmitRetry (st : Fin 16)        -- R542
  | frameReceive (fr : EthFrame)              -- R508
  | gateStateChange (port : Fin 8)            -- R510
  | linkUp (port : Fin 8) (partnerRates : BitVec 3)   -- R497
  | linkDown (port : Fin 8)                   -- R497
  | timeSync (t : Quad) (grandmaster : Bool)  -- R512
  | irqEventNotice                            -- R736
  -- faults
  | faultReport (r : Report)                  -- R568
  | ploughTmo (eng : Fin 24)                  -- R561
  | escalationQuietExpiry (source : Fin 128) (inst : Nat)   -- R565
  | quietTimerExpiry                          -- R582
  | engineSelfTestDone (eng : Fin 24) (failStep : Fin 6)    -- R583; 0 when every step passed
  | sliceSelfTestDone (slice : Fin 64) (passed : Bool)      -- R583
  | alertNMinLowExpiry                        -- R590
  | fltctlExit (p : Path)                     -- R585
  | fltinjWrite (a : WrAcc)                   -- R594
  | fltsumWrite (a : WrAcc)                   -- R591
  | engctlReadmit (p : Path) (reng : BitVec 5)   -- R586
  | engctlDis (p : Path) (mask : BitVec 24)   -- R744
  -- the Parish Book
  | pbRecordProgrammed                        -- R606
  | pbctlFlush (p : Path)                     -- R605
  | pbctlClear (p : Path)                     -- R611
  | pbEraseDone                               -- R611
  | pbcurWrite (a : WrAcc)                    -- R610
  | pbwin7Read (p : Path)                     -- R610
  -- tables, time, registers
  | tbldataWrite (a : WrAcc)                  -- R49
  | tbldataRead (p : Path)                    -- R755
  | tblselCommit (p : Path) (sel : Byte)      -- R50
  | tblselRevert (p : Path) (sel : Byte)      -- R51
  | timeLoRead (p : Path)                     -- R723
  | irqenWrite (a : WrAcc)                    -- R736
  | portcfgWrite (a : WrAcc)                  -- R747
  | mbWriteHighHalf (addr : Half) (hi : Half) -- R731
  | mbReadLowHalf (addr : Half)               -- R729
  | registerWrite (w : BitVec 6) (a : WrAcc)  -- R15
  -- device control, resets
  | devctlRun (p : Path) (on : Bool)          -- R735
  | devctlPsreq (p : Path) (v : BitVec 2)     -- R622
  | devctlProfile (p : Path) (v : BitVec 2)   -- R647
  | devctlService (p : Path) (on : Bool)      -- R709
  | devctlWrst (p : Path)                     -- R735
  | wrstN (lowNs : Nat)                       -- R772
  | warmReset                                 -- R484
  | recovery                                  -- R485
  | porstN (bootsel : BitVec 2) (devaddr : BitVec 6)   -- R681
  -- power
  | standbyEntry                              -- R625
  | watchEntry                                -- R626
  | restoreStep                               -- R638
  | wakeIn (highNs : Nat)                     -- R629
  | wakeTimerExpiry                           -- R629
  | tc10Wake (port : Fin 8)                   -- R629
  | railRemovalInWatch (mask : BitVec 4)      -- R632
  | railLost (mask : BitVec 4)                -- R634
  | pfailN (lowNs : Nat)                      -- R607
  | vauxPf                                    -- R641
  | vauxInh                                   -- R643
  | vauxOk                                    -- R641
  | hearthBrownout                            -- R645
  | vhrtOk                                    -- R645
  | powerEstimate (avg10us avg1ms vinAmps : Nat)   -- R649
  | thermalStep (tj : Int)                    -- R651
  | thermalDerate (tj : Int)                  -- R650
  | thermtrip (tj : Int)                      -- R652
  -- the Watch and the auxiliary inputs
  | watchRun                                  -- R665
  | tdmFrame (input : Fin 4) (slots : List Word)   -- R656; eight slot words as received
  | tdmSyncLoss (input : Fin 4)               -- R654
  | spiTransaction (ctl : Fin 2) (bytes : List Byte)   -- R655
  | auxSpiTimeout (ctl : Fin 2)               -- R655
  -- security
  | opsecsSave (opsecs : Word)                -- R734
  | challenge (p : Path)                      -- R689
  | attest (p : Path)                         -- R695
  | openDebug (p : Path)                      -- R711
  | closeDebug (p : Path)                     -- R712
  | lifecycle (p : Path)                      -- R708
  | verify (p : Path)                         -- R700
  | release (p : Path)                        -- R703
  | rollfwd (p : Path)                        -- R684
  | setcak (p : Path)                         -- R693
  | policy (p : Path)                         -- R698
  | bookclr (p : Path)                        -- R691
  | clrauthExpiry                             -- R691
  | update (p : Path)                         -- R685
  | store (p : Path)                          -- R689
  -- pins and the TAP
  | porstNAsserted                            -- R772
  | pfailNRelease                             -- R607
  | tapInstruction (ir : Byte) (scan : TapScan)   -- R713
  | trstN                                     -- R713
deriving DecidableEq, Repr

end Sys2Proof
end

