-- ==== Sys2Proof/Decode.lean ====
section
/-! DEFINITION. The command a table word spells. The opcode table gives no row any bits (every row has an empty field
list and no fixed bits), so no word spells a command. -/

namespace Sys2Proof

/-- No row of spec/opcode_table.json gives bits: every word is rejected. -/
def decodeTableWord (_nbits _w : Nat) : Option Instr := none

end Sys2Proof
end

