-- ==== Sys2Proof/Config.lean ====
section
/-! DEFINITION. What the part fixes and the spec leaves open: constants without a body, so that no proof
can rest on a value. Each is named in notes/assumptions. -/

namespace Sys2Proof.Config

/-- A value the spec leaves open, drawn by count (log 1). -/
opaque freeNat : Nat → Nat
/-- A byte the spec leaves open, drawn by count (log 1). -/
opaque freeByte : Nat → Byte
/-- Time that has passed, in ns, when the clock is read for the n-th time (R512, log 5). -/
opaque elapsed : Nat → Nat

/-- `CAPS.GRADE`: true for a -X part (R4). -/
opaque gradeX : Bool
/-- The UID fuses (R673). -/
opaque uid : BitVec 128
/-- The device secret DS (R673, R674). -/
opaque ds : BitVec 256
/-- The 802.1AS clock identity of the part (R545). -/
opaque clockId : Quad
/-- The anti-rollback count F a part leaves Craern with (R786). -/
opaque factoryF : Nat
/-- By how much the SVN of the shipped image exceeds F (R786). -/
opaque svnOver : Nat
/-- Bytes of the image both boot slots are shipped with, by slot offset (R786). -/
opaque factoryImage : Nat → Byte
/-- `OPSECS` and `PCYCLES` accumulated at Craern test (R784). -/
opaque factoryOpsecs : Word
opaque factoryPcycles : Word

/-- SHA-256 of FIPS 180-4 (R671); the spec names the standard and gives no algorithm. -/
opaque sha256 : List Byte → BitVec 256
/-- HMAC-SHA-256 (R676): key, message. -/
opaque hmacSha256 : BitVec 256 → List Byte → BitVec 256
/-- SLH-DSA verification of FIPS 205 (R671): public key, message, signature. -/
opaque slhVerify : List Byte → List Byte → List Byte → Bool
/-- SLH-DSA-SHA2-128f signing (R671, R695): private key material of R676, message; 17,088 bytes. -/
opaque slhSign : List Byte → List Byte → List Byte
/-- The public key of `slh_keygen_internal` (R676), 32 bytes. -/
opaque slhPublic : List Byte → List Byte
/-- AES-256 key wrap (R675): key, data. -/
opaque aesWrap : BitVec 256 → List Byte → List Byte
/-- The vendor root public key in mask ROM (R675), 48 bytes. -/
opaque vendorKey : List Byte

/-- The bit pattern of an FP32 result that is not a number, by operands; IEEE 754 leaves its payload open (log 8). -/
opaque nanBits : Word → Word → Word
/-- Length in bytes of the firmware component at an offset of an image body: the image header gives offsets only (R679). -/
opaque fwLength : List Byte → Nat → Nat
/-- The boot slot that an UPDATE names, 0 A or 1 B: the spec does not place it in the buffer (R685, R687). -/
opaque updateSlot : List Byte → Nat
/-- A value the spec leaves open that depends on an operation's operands alone, so that equal inputs give equal results (R184): what is
left open, and the operands as a quotient. -/
opaque valueOf : Nat → Int → Nat → Nat

/-- F of a part as shipped; SVF has 64 bits (R673). -/
def shippedF : Nat := min 64 factoryF
/-- SVN of the shipped image, at least F (R786). -/
def shippedSvn : Nat := min 64 (factoryF + svnOver)

end Sys2Proof.Config
end

