-- ==== Sys2Proof/Machine/State.lean ====
section
/-! DEFINITION. The state of the part, as plain data. Every collection is a sparse table whose unlisted entries hold the
default value of its type, which is the value after reset. -/

namespace Sys2Proof.Machine

/-- Why the machine stops: no command of the part does. What fails is reported to the Bell or ends a job with a status. -/
inductive Fault where
deriving DecidableEq, Repr

/-- Why a command has no meaning. -/
inductive Refusal where
  /-- Raised by the dispatcher for a command not modelled yet. Safe. -/
  | notModelled (mnemonic : String)
  /-- Raised by TAP_INSTRUCTION for a step of a halted Reeve core: the Reeve's firmware is the vendor's and the spec does
  not say what one step of it does (R26, R710). Safe. -/
  | reeveFirmwareStep
deriving DecidableEq, Repr

/-! ## The register file -/

/-- What each path keeps for itself (R720). `rdata` is the value the path's last read returned. -/
structure Ctx where
  qsel : BitVec 5 := 0
  portsel : BitVec 4 := 0
  sel : Byte := 0
  ainc : Bool := false
  tbladdr : Word := 0
  pbcur : BitVec 15 := 0
  pbwin : Tab Word := []
  tlatch : Word := 0
  hold : Option (BitVec 6 × Half) := none
  snap : Option (BitVec 6 × Word) := none
  csnap : Ctr := 0
  rdata : Word := 0
deriving DecidableEq, Repr

/-- Words and fields that exist once (R733, R735, R744, R745, R750, R751). -/
structure Dev where
  run : Bool := false
  psreq : BitVec 2 := 0
  profile : BitVec 2 := 0
  service : Bool := false
  wrst : Bool := false
  pstate : BitVec 3 := 6
  bootok : Bool := false
  halted : Bool := false
  irqstat : BitVec 11 := 0
  irqen : BitVec 11 := 0
  /-- Rises of `irqstat & irqen` since the last notice (R736). -/
  irqDue : Bool := false
  bootSlot : BitVec 2 := 0
  bootSvn : BitVec 7 := 0
  resA : BitVec 3 := 0
  resB : BitVec 3 := 0
  epoch : Word := 0
  rdone : Bool := true
  lost : Half := 0
  dis : BitVec 24 := 0
  view : BitVec 2 := 0
  reng : BitVec 5 := 0
  sktype : Half := 0x88B5
  id : BitVec 6 := 0
  sys : Byte := 0
  opsecs : Word := Config.factoryOpsecs
  pcycles : Word := Config.factoryPcycles
  scratch : Word := 0
  /-- 802.1AS time in ns when the clock was last read (R512), and the count of readings. -/
  time : Quad := 0
  clk : Nat := 0
  synced : Bool := false
  /-- The command under way has changed the power state, freed an entry or ended an exit: held ring entries are tried again at its end
  (R55). -/
  retryDue : Bool := false
  /-- Link generation of the device (R788). -/
  lgen : Word := 1
deriving DecidableEq, Repr

/-- One command queue (R737, R235, R238, R451). -/
structure Queue where
  base : Addr := 0
  cbase : Addr := 0
  lsize : BitVec 4 := 4
  prio : BitVec 2 := 0
  safe : Bool := false
  en : Bool := false
  stream : BitVec 4 := 0
  sbind : Bool := false
  quota : BitVec 15 := 512
  head : Half := 0
  tail : Half := 0
  chead : Half := 0
  ctail : Half := 0
  reason : Byte := 0
  held : Bool := false
  stopped : Bool := false
  ovf : Bool := false
  bslots : Tab Word := []
  sc : Tab Word := []
  jseq : Word := 0
deriving DecidableEq, Repr

/-! ## The Ledger -/

/-- States of an entry (R454). -/
inductive EState where
  | free
  | accepted
  | running
  | committed
  | posted
deriving DecidableEq, Repr

/-- A Ledger entry (R450). -/
structure Entry where
  st : EState := .free
  queue : BitVec 5 := 0
  jseq : Word := 0
  rerun : Bool := false
  replayed : Bool := false
  degraded : Bool := false
  const : Bool := false
  form : Bool := false
  cmt : Bool := false
  cplack : Bool := false
  status : Byte := 0
  replays : Byte := 0
  list : Addr := 0
  cidx : Half := 0
  fidx : Half := 0xFFFF
  ncmd : Half := 0
  cepoch : BitVec 16 := 0
  slot : Option (BitVec 6) := none
  originId : BitVec 6 := 0
  originHost : Bool := false
  port : BitVec 3 := 0
  dstep : Byte := 0
  ddesc : Byte := 0
  tag : Quad := 0
  donen : BitVec 25 := 0
  /-- AREA with AREAV; BMAP follows it. -/
  area : Option (BitVec 6) := none
  acctime : Word := 0
deriving DecidableEq, Repr

/-- A window in a job's window list (R486). -/
structure WinRec where
  eng : Fin 24
  win : Fin 8
  off : BitVec 23
  len : BitVec 23
  engmask : BitVec 24
  devmask : Quad
  wrec : Option Addr
deriving DecidableEq, Repr

/-- A staged write: an absolute value a commit applies (R468, R473). -/
inductive Staged where
  | mem (a : Addr) (bytes : List Byte)
  | signal (q : BitVec 5) (ctr : BitVec 2) (v : Word)
  | slots (first : Nat) (vals : List Word)
  | winOpen (w : WinRec)
  | winClosed (eng : Fin 24) (win : Fin 8)
  | codebook (stream : BitVec 4) (gen : BitVec 16) (caddr : Addr) (ecrc : Word) (kind vlen cbits ecode : Nat)
  | flags (rerun const : Bool)
  | rerunPhase
  | rerunDone (cont : Half)
deriving DecidableEq, Repr

/-- The job record in the work area (R449). -/
structure JobRec where
  bslots : Tab Word := []
  ringIdx : Option Half := none
  /-- Bases of the current and the shadow slot of the generation record at the loader check (R177, R179). -/
  gens : Addr × Addr := (0, 0)
  /-- GEN of the generation record at the loader check (R177). -/
  gen : Word := 0
  cbrefs : List (BitVec 4 × BitVec 16) := []
  sendBase : BitVec 48 := 0
  fpt : Nat := 0
  psize : Nat := 0
  /-- Boxes per tile of a derived BOXPOOL table (R326), and the first free value of an OPTIM's draws (log 11). -/
  mt : Nat := 0
  draws : Nat := 0
  rerunPhase : Bool := false
  /-- Count of the completion record of a POSTED job, which R455 compares with `QCHEAD`. -/
  recIdx : Option Half := none
  windows : List WinRec := []
  staged : List Staged := []
deriving DecidableEq, Repr

/-- Where the command at CIDX stands in the Reeve. -/
inductive RunPhase where
  | fresh
  | barrier
  | wait14
  | waitSlot
  | tiled
  | acting
  | finished
deriving DecidableEq, Repr

/-- Reeve working state for one entry; a warm reset loses it (R483) and recovery rebuilds it. -/
structure JobRun where
  phase : RunPhase := .fresh
  /-- Order in which loader checks were passed (R251). -/
  order : Nat := 0
  tcount : Nat := 0
  /-- Scale tables read and adapted (R164), generation record held (R180), footprint (R349). -/
  reads : List Nat := []
  adapts : List Nat := []
  genrec : Option Nat := none
  foot : Nat := 0
  /-- Windows that outputs lie in, as the loader found them: address, engine, window, WEPOCH (R353). -/
  aper : List (Nat × Nat × Nat × BitVec 16) := []
deriving DecidableEq, Repr

/-- A command area (R449). -/
structure Area where
  /-- The Ledger entry that holds the area. -/
  owner : Option Nat := none
  mcnt : Nat := 0
  elems : Nat := 0
  cliph : Nat := 0
  clipl : Nat := 0
  satin : Nat := 0
  bitmap : List Nat := []
  /-- Greatest and least extreme per scale block, FP32. -/
  merge : Tab (Option (Word × Word)) := []
  staged : List Staged := []
deriving DecidableEq, Repr

/-- One tile's deposit (R464). -/
structure Deposit where
  slot : Nat
  tile : Nat
  epoch : BitVec 16
  elems : Nat
  cliph : Nat
  clipl : Nat
  satin : Nat
  ext : List (Nat × Word × Word)
deriving DecidableEq, Repr

/-! ## Transfer programs (R382-R386) -/

/-- OP of a transfer descriptor (R386). -/
inductive XOp where
  | read
  | write
  | winwrite
  | expand
  | fence
deriving DecidableEq, Repr

/-- A transfer descriptor (R385). `pitch` and `ppitch` are 40-bit two's complement. -/
structure Xfer where
  op : XOp
  cls : BitVec 2 := 0
  phaseEnd : Bool := false
  masked : Bool := false
  osel : BitVec 3 := 0
  rows : BitVec 16 := 1
  planes : BitVec 16 := 1
  boff : BitVec 24 := 0
  base : Addr := 0
  bpitch : BitVec 16 := 1
  len : BitVec 24 := 0
  pitch : BitVec 40 := 0
  ppitch : BitVec 40 := 0
  wepoch : BitVec 16 := 0
deriving DecidableEq, Repr

/-- A request of a tile's LOAD (R388): where its bytes come from, how many, the footprint offset that R387 gives them, and the index of
its descriptor. For an EXPAND row `fa` is an address of the tile's buffers (`bufBase`). -/
structure Req where
  fa : Nat
  len : Nat
  fo : Nat := 0
  desc : Nat := 0
  cls : BitVec 2 := 0
deriving DecidableEq, Repr

/-- A request of a tile's DRAIN: bytes with a mask of the bits they write, at an address or in a window (engine, window, WEPOCH), and the
index of its descriptor. -/
structure WReq where
  fa : Nat
  data : List Byte
  mask : List Byte
  win : Option (Nat × Nat × BitVec 16) := none
  desc : Nat := 0
  cls : BitVec 2 := 0
deriving DecidableEq, Repr

/-! ## The Tally -/

/-- Phase of an open claim (R255, R276). -/
inductive TilePhase where
  | claimed
  | load
  | compute
  | drain
deriving DecidableEq, Repr

/-- A tile an engine holds, as the Tally sees it. `stamp` is the epoch it was granted under. -/
structure OpenClaim where
  eng : Fin 24
  tile : Nat
  stamp : BitVec 16 := 0
deriving DecidableEq, Repr

/-- A Tally slot (R255). `stopping` marks a slot withdrawn under R269; `foldq` holds the acceptances whose durable
record is not made yet, oldest first (R466). -/
structure Slot where
  used : Bool := false
  entry : Fin 16384 := 0
  queue : BitVec 5 := 0
  cidx : Half := 0
  tcount : Nat := 0
  nextT : Nat := 0
  ret : List Nat := []
  epoch : BitVec 16 := 0
  prio : Nat := 0
  eprio : Nat := 0
  seq : Nat := 0
  opn : List OpenClaim := []
  done : Nat := 0
  doneTiles : List Nat := []
  stopping : Bool := false
  foldq : List Deposit := []
  /-- The transfer program of the command, in the slot's part of the program store (R382). -/
  prog : List Xfer := []
deriving DecidableEq, Repr

/-! ## Engines -/

/-- A tile as the engine holds it (R260, R276). -/
structure Claim where
  slot : Nat
  tile : Nat
  epoch : BitVec 16
  phase : TilePhase := .claimed
  cell : Nat := 0
  /-- A write of the tile has been issued (R267, R268). -/
  wrote : Bool := false
  /-- Block mismatches met (R435). -/
  mism : Nat := 0
  /-- The tile runs in the direct form although the command is a Winograd command (R308, R314). -/
  direct : Bool := false
  /-- A request failed finally: nothing further is issued for the tile (R393). -/
  failed : Bool := false
  /-- The tile has received poisoned data: no DRAIN until the Bell's reaction releases it (R346). -/
  poisoned : Bool := false
  /-- COMPUTE of the tile has been carried out. -/
  computed : Bool := false
deriving DecidableEq, Repr

/-- A Stook entry (R88). -/
structure StookEntry where
  value : BitVec 32 := 0
  res : BitVec 2 := 0
  sat : Bool := false
  par : Bool := false
deriving DecidableEq, Repr

/-- A tile's DRAIN through the Sieve: the command's slot SEQ, DRAIN rows, whether the generator steps, and what the counters of R161 will
have counted at its end. -/
structure SieveRun where
  seq : Nat := 0
  rows : Nat := 0
  sr : Bool := false
  elems : Nat := 0
  cliph : Nat := 0
  clipl : Nat := 0
  satin : Nat := 0
deriving DecidableEq, Repr

/-- Weight registers of the Field, 10 bits at index 512 × row + column (R70), and of the Smithy, 32 bits each (R101). -/
structure WRegs where
  field : Tab (BitVec 10) := []
  smithy : Tab Word := []
deriving DecidableEq, Repr

/-- A grant (R256). -/
structure Grant where
  slot : Nat
  tile : Nat
  epoch : BitVec 16
deriving DecidableEq, Repr

/-- A message of the Tally to an engine: a grant or NONE (R256), RESTAMP with the new epoch (R266), AVAILABLE (R261). -/
inductive ToEngine where
  | grant (g : Option Grant)
  | restamp (slot : Nat) (epoch : BitVec 16)
  | available
deriving DecidableEq, Repr

/-- A message of an engine to the Tally: a claim (R256), DONE with the pending cell of its deposit (R264, R464), and the answer to a RESTAMP with the tiles kept (R267, R268). -/
inductive ToTally where
  | claim
  | done (g : Grant) (cell : Nat)
  | answer (slot : Nat) (epoch : BitVec 16) (kept : List Nat)
deriving DecidableEq, Repr

/-- A Barn: written bytes, and ranges whose bytes the model leaves free because tile placement is the Plough's own
(R339), newest first; everything else reads zero (R341). `bad` marks 64-bit words by their count of inverted check bits. -/
structure Barn where
  bytes : Mem := []
  unknown : List (Nat × Nat × Nat) := []
  bad : Tab Nat := []
deriving DecidableEq, Repr

/-- One engine (R29). -/
structure Engine where
  fenced : Bool := false
  retired : Bool := false
  winoOff : Bool := false
  islandOff : Bool := false
  testing : Bool := false
  /-- The self-test is one that `ENGCTL.READMIT` asked for (R586). -/
  readmit : Bool := false
  /-- Sticky hold of R119. -/
  hold : Bool := false
  /-- A claim sent and not yet answered; NONE received and no AVAILABLE since (R256, R261). -/
  claiming : Bool := false
  idle : Bool := false
  claims : List Claim := []
  /-- Messages on their way between the Tally and the engine, oldest first: a crossing keeps issue order (R38). -/
  inq : List ToEngine := []
  outq : List ToTally := []
  barn : Barn := {}
  stook : Tab StookEntry := []
  /-- Foreground and background weight registers (R77). -/
  fg : WRegs := {}
  bg : WRegs := {}
  /-- Lanes of the SR generator, kept apart for each command the engine has drained tiles of, by the SEQ of its slot (R153-R155). -/
  lanes : Tab (Tab Quad) := []
  millKept : List (Nat × Nat) := []
  millBooks : List (BitVec 4 × BitVec 16) := []
  /-- The tile's buffers, by the device address or image offset each byte came from; where a byte lies in the Barn is the Plough's own
  (R339). -/
  buf : Tab (Option Byte) := []
  /-- LOAD: requests not issued yet, and those under way, each of which holds a credit for each of its sectors (R388, R389); EXPAND rows
  not delivered yet (R428); compressed sectors in flight (R432). -/
  todo : List Req := []
  outs : List Req := []
  rows : List Req := []
  millOut : Nat := 0
  /-- DRAIN: the same of writes. -/
  wtodo : List WReq := []
  wouts : List WReq := []
  /-- What the tile in DRAIN deposits (R264), and what the Sieve makes of it. -/
  dep : Option Deposit := none
  sieve : Option SieveRun := none
  /-- Sectors of discarded tiles still to come (R394); writes of discarded tiles under way, with slot and epoch; credits that the copy
  home of a window holds (R359). -/
  discOut : Nat := 0
  late : List (WReq × Nat × BitVec 16) := []
  copyOut : Nat := 0
  scrubPos : Nat := 0
  /-- Parts of SCRUBs the engine still has to carry out, oldest first: entry, BARN, STOOK (R343). -/
  scrubs : List (Fin 16384 × Bool × Bool) := []
deriving DecidableEq, Repr

/-- Window states (R348). -/
inductive WState where
  | closed
  | opn
  | closing
deriving DecidableEq, Repr

/-- A window (R348). -/
structure Window where
  st : WState := .closed
  off : BitVec 23 := 0
  len : BitVec 23 := 0
  engmask : BitVec 24 := 0
  devmask : Quad := 0
  wepoch : BitVec 16 := 0
  owner : BitVec 5 := 0
  lost : Bool := false
  /-- The entry whose WCLOSE is copying the window home (R359). -/
  closer : Option (Fin 16384) := none
deriving DecidableEq, Repr

/-! ## Granary, codebooks -/

/-- A Granary slice (R364). A tag holds the line number of a present line. -/
structure Slice where
  disabled : Bool := false
  testing : Bool := false
  tags : Tab (Option Nat) := []
  plru : Tab (BitVec 15) := []
  /-- Outstanding misses: line, class, joined requests (R369). -/
  misses : List (Nat × Nat × Nat) := []
  /-- Requests that found all trackers busy, oldest first: line, class (R369). -/
  waiting : List (Nat × Nat) := []
  /-- Lines that hold a word with one or two inverted check bits (R371, R595). -/
  bad : Tab Nat := []
deriving DecidableEq, Repr

/-- States of a codebook slot (R420). -/
inductive CbState where
  | empty
  | current
  | pending
  | retiring
deriving DecidableEq, Repr

/-- A codebook slot (R420). REF is the number of jobs whose record names the generation (R422, R427), so it is computed. -/
structure CbSlot where
  st : CbState := .empty
  gen : BitVec 16 := 0
  caddr : Addr := 0
  ecrc : Word := 0
  kind : Nat := 0
  vlen : Nat := 0
  cbits : Nat := 0
  ecode : Nat := 0
deriving DecidableEq, Repr

/-! ## Network -/

/-- A frame on the wire or towards a bridge (the model's record of what left a port). -/
inductive TxFrame where
  /-- With the VID and PCP of its port (R513). -/
  | skouk (vid : BitVec 12) (pcp : BitVec 3) (f : SkFrame)
  | bridged (port : Fin 8) (fr : EthFrame)
  | tc10Sleep (port : Fin 8)
deriving DecidableEq, Repr

/-- A port or auxiliary input (R747). Index 0-7 ports, 8-11 TDM, 12-13 SPI. -/
structure Port where
  cfg : Word := 0
  rate : BitVec 2 := 0
  partner : Option (BitVec 7) := none
  oam : Byte := 0
  downf : Bool := false
  cfgerr : Bool := false
  secured : Bool := false
  asleep : Bool := false
  gates : Byte := 0xFF
  gatePos : Nat := 0
  /-- Frames that wait for the gate of their traffic class, in the order of their arrival (R504). -/
  egress : List (Nat × TxFrame) := []
  sync : Bool := false
deriving DecidableEq, Repr

/-- What the device knows of one endpoint and its two pairs (R517-R523). Index 0-63 devices, 64-127 hosts. -/
structure Peer where
  present : Bool := false
  mac : BitVec 48 := 0
  port : BitVec 3 := 0
  /-- A JOIN of the endpoint has been accepted in the recorded link generation (R518). -/
  joined : Bool := false
  bepoch : Word := 0
  lgen : Word := 0
  psize : Half := 0
  /-- Receiver side: next expected SEQ; frames accepted and not yet acknowledged (R519). -/
  exp : Word := 0
  ackOwed : Nat := 0
  /-- Sender side: next SEQ, unacknowledged frames oldest first, frames waiting for room or for the pair (R520, R534). -/
  nextSeq : Word := 0
  unacked : List SkFrame := []
  waiting : List SkFrame := []
  lastAck : Word := 0
  ackRepeats : Nat := 0
  timeouts : Nat := 0
  /-- Own JOIN acknowledged (R546), and the pair's state. -/
  joinSent : Bool := false
  joinAcked : Bool := false
  down : Bool := false
  /-- RMEM and WMEM held in STANDBY (R630). -/
  heldReqs : List SkFrame := []
deriving DecidableEq, Repr

/-- What the receiver keeps for a source device (R554, R555). -/
structure SendRx where
  present : Bool := false
  bepoch : Word := 0
  base : BitVec 48 := 0
  answers : Tab (BitVec 2) := []
deriving DecidableEq, Repr

/-- A SEND frame not yet answered: number, engine, slot, tile, epoch, and the frame (R556). -/
structure SendOut where
  ssn : BitVec 48
  eng : Fin 24
  slot : Nat
  tile : Nat
  epoch : BitVec 16
  frame : SkFrame
  retry : Bool := false
deriving DecidableEq, Repr

/-- What the sender keeps for a destination device (R479, R552). -/
structure SendTx where
  next : BitVec 48 := 0
  out : List SendOut := []
deriving DecidableEq, Repr

/-- A stream (R537-R543): its stop mark, the period counts of triggered jobs, and the samples of a partial slot. -/
structure Stream where
  stopped : Bool := false
  /-- Triggered submissions not accepted yet, oldest period first (R542). -/
  retry : List Nat := []
  partialBytes : List Byte := []
  partialTime : Quad := 0
  /-- When the last EVENT of this stream was sent (R543). -/
  evtTime : Option Quad := none
deriving DecidableEq, Repr

/-- The Market (R504-R509). -/
structure Market where
  /-- Learning table: MAC, VID, port; newest first, at most 4,096. -/
  learned : List (BitVec 48 × BitVec 12 × Fin 8) := []
  /-- Filter meters: committed and excess tokens in bits, and time of the last fill. -/
  meters : Tab (Option (Nat × Nat × Quad)) := []
deriving DecidableEq, Repr

/-! ## The Bell and the Parish Book -/

/-- Fault states (R580). -/
inductive FState where
  | normal
  | fault
  | halted
  | latched
deriving DecidableEq, Repr

/-- A reaction in force: source, instance, class (1 D, 2 S, 3 X), action, and whether its signal is FLT. -/
structure Reaction where
  source : Nat
  inst : Nat
  cls : Nat
  action : Nat
  flt : Bool
deriving DecidableEq, Repr

/-- An exit from the fault state in progress (R582). `dealt` are the reactions in force when it started. -/
structure FExit where
  auto : Bool
  waitReset : Bool
  dealt : List Reaction
  engs : List (Fin 24) := []
  slices : List (Fin 64) := []
  readmitted : BitVec 24 := 0
  retired : BitVec 24 := 0
  late : Bool := false
deriving DecidableEq, Repr

/-- The Bell (R562-R592). -/
structure Bell where
  fstate : FState := .normal
  quietRunning : Bool := false
  reactions : List Reaction := []
  esc : Tab Nat := []
  seen : List Nat := []
  cflt : Bool := false
  exit : Option FExit := none
  /-- Reports held from a warm reset until recovery step 1 ends (R592). -/
  heldReports : List Report := []
  inReset : Bool := false
  fltsum : Byte := 0
  profile : BitVec 2 := 0
  alertc : Bool := false
  autoexit : Bool := true
  quiet : BitVec 4 := 3
  count : BitVec 4 := 0
  limit : BitVec 4 := 8
  injTarget : BitVec 4 := 0
  injUnit : BitVec 6 := 0
  injBits : Bool := false
  /-- COUNT as written, and the checks still to be affected (R595). -/
  injCount : Byte := 0
  injLeft : Byte := 0
  injArmed : Bool := false
  /-- DRAM channels with a persistent fault (R381). -/
  badChans : List Nat := []
  /-- TBLSEL values of tables whose SRAM a HEARTH_SRAM report located (R52). -/
  lostTables : List Nat := []
deriving DecidableEq, Repr

/-- A Parish Book record in the buffer (R598); SEQ and CRC are formed when it is programmed (R603). -/
structure Rec where
  code : Half
  flags : Half := 0
  opsecs : Word := 0
  pcycles : Word := 0
  p0 : Word := 0
  p1 : Word := 0
  p2 : Word := 0
  p3 : Word := 0
deriving DecidableEq, Repr

/-- The Parish Book (R603-R611). `region` holds 32-byte records as one 256-bit value, unlisted slots erased. -/
structure Book where
  ainc : Bool := false
  /-- The buffer, oldest first; a PFAIL record holds the reserved slot and counts apart from the other 127. -/
  buf : List Rec := []
  pfailArmed : Bool := true
  region : Tab (BitVec 256) := []
  regn : Nat := 0
  dropped : Nat := 0
  full : Bool := false
  flushing : Bool := false
  erasing : Bool := false
  cut : Bool := false
  /-- `PBCTL.FLUSH`: a flush that software asked for is under way (R605, R745). -/
  flushReq : Bool := false
  /-- A PORST_N that waits for the flush to end (R772). -/
  resetWaits : Bool := false
deriving DecidableEq, Repr

/-- Output pins (R587-R590, R632, R635, R652). -/
structure Pins where
  alertLow : Bool := false
  alertMin : Bool := false
  alertPulse : Bool := false
  thermtrip : Bool := false
  wakeOut : Bool := false
  /-- The 10 µs pulse of R635 is being driven. -/
  wakePulse : Bool := false
deriving DecidableEq, Repr

/-! ## Power, Watch, security -/

/-- Power and temperature (R617-R652). -/
structure Power where
  /-- Request pending for STANDBY (2) or WATCH (3) (R624). -/
  request : Option (BitVec 2) := none
  entering : BitVec 2 := 0
  /-- A wake that came during ENTERING (R627). -/
  wakeLatched : Bool := false
  /-- Only DEBUG has caused the exit in progress (R631). -/
  debugOnly : Bool := false
  restoreFrom : BitVec 3 := 2
  restorePos : Nat := 0
  /-- A request written during RESTORING (R628). -/
  lateReq : Option (BitVec 2) := none
  /-- A Watch trigger during RESTORING (R666). -/
  watchDue : Bool := false
  thermCeil : Nat := 26
  powerCeil : Nat := 26
  derate : Bool := false
  floorGroups : Nat := 0
  est : BitVec 9 := 0
  /-- Estimates in a row whose 1 ms average was below 95 % of the limit (R649). -/
  lowRun : Nat := 0
  tj : Int := 0
  tjmax : Int := 0
  throttledOnce : Bool := false
  lowPower : Bool := false
  pfail : Bool := false
  belowPF : Bool := false
  inhibit : Bool := false
  /-- The part is held in reset until the inhibit is released (R772). -/
  bootHeld : Bool := false
  /-- The inhibit has been set since the last boot, so VAUX may have been lost (R734, log 26). -/
  vauxMayFail : Bool := false
  /-- An operation the inhibit stopped, whose NV_CUT record waits for its release (R643): PARAM0, PARAM1. -/
  nvCut : Option (BitVec 2 × Word) := none
  vauxWasOk : Bool := true
  lastbo : Bool := false
  brownout : Bool := false
  boState : BitVec 3 := 0
  wakesrc : BitVec 7 := 0
  wen : Bool := false
  wclk : BitVec 2 := 0
  lport : BitVec 3 := 0
  wakeen : BitVec 5 := 0x1F
  wout : Bool := false
  wtimer : BitVec 20 := 0
  /-- A WRST_N, DEVCTL.WRST or HALTED exit asks for a warm reset: the cause of R602 WARM_RESET. -/
  wrstReq : Option Nat := none
  /-- The warm reset has been made and recovery has not ended. -/
  recovering : Bool := false
deriving DecidableEq, Repr

/-- The Watch (R657-R666). -/
structure Watch where
  mem : Mem := []
  active : Bool := false
  slen : Option Nat := none
  counts : Tab Nat := []
  trig : Byte := 0
  shalf : Bool := false
  /-- Latched scores of the eight entries. -/
  scores : Tab (BitVec 4) := []
  /-- Samples of input i, channel c at index 16 i + c, oldest first. -/
  hist : Tab (List Int) := []
deriving DecidableEq, Repr

/-- An expert table (R47-R52). The staging copy is the active table of the last commit, revert or PORST_N with the bytes
written since laid over it; `cfg` keeps the basic register fields that table was derived from. -/
structure Table where
  expert : Bool := false
  active : Mem := []
  staging : Tab (Option Byte) := []
  cfg : Nat := 0
  refused : Bool := false
  /-- `TBLSEL.COMMIT` of this table: a commit that waits for its boundary (R50, R751), and the configuration change time of a gate control
  list in ns. -/
  commit : Bool := false
  change : Nat := 0
deriving DecidableEq, Repr

/-- A boot slot of flash: the shipped image until it is erased (R678, R786). -/
structure BootSlot where
  factory : Bool := true
  bytes : Mem := []
deriving DecidableEq, Repr

/-- Security and lifecycle (file 13). -/
structure Sec where
  lc : BitVec 4 := 3
  debug : BitVec 2 := 0
  dsWritten : Bool := true
  okh : Option (BitVec 256) := none
  svf : Nat := Config.shippedF
  secbuf : Mem := []
  ownerKey : Option (List Byte) := none
  policy : Option Quad := none
  cak : Option (List Byte × List Byte) := none
  storedEpoch : Word := 0
  storedOpsecs : Word := Config.factoryOpsecs
  storedPcycles : Word := Config.factoryPcycles
  nonce : Option (BitVec 256 × Quad) := none
  regions : Tab (Option (Addr × Word)) := []
  m0 : BitVec 256 := 0
  m1 : BitVec 256 := 0
  m2 : BitVec 256 := 0
  busy : Bool := false
  result : BitVec 4 := 0
  clrauth : Bool := false
  lastop : Byte := 0
  /-- The ROM waits in recovery for a recovery image (R683). -/
  recoveryMode : Bool := false
  slotA : BootSlot := {}
  slotB : BootSlot := {}
  user : Mem := []
  tapIr : Byte := 0x02
  bscan : Bool := false
  bcells : List Bool := []
  reeveHalted : Bool := false
  /-- An OPEN that waits for its wake, or for tiles to end (R711): token signer, target state, path code. -/
  opening : Option (BitVec 2 × Byte × Nat) := none
  /-- An ATTEST that waits for the power state to settle (R696), and the BOOTSEL strap latched at PORST_N (R681). -/
  attestWait : Bool := false
  bootsel : BitVec 2 := 0
deriving DecidableEq, Repr

/-- The state of the part. `pending` is the queue of commands that wait, first in first out. -/
structure State where
  pending : List Instr := []
  /-- Free values drawn so far (log 1). -/
  fresh : Nat := 0
  dev : Dev := {}
  /-- Contexts: 0 bus, 1 TAP, 2 on-chip, 3 + n port n. -/
  ctxs : Tab Ctx := []
  queues : Tab Queue := []
  ledger : Tab Entry := []
  mirror : Tab Entry := []
  badP : List Nat := []
  badM : List Nat := []
  jobs : Tab JobRec := []
  runs : Tab JobRun := []
  areas : Tab Area := []
  /-- Pending cells: index 2 × engine + cell. -/
  cells : Tab (Option Deposit) := []
  admitting : Nat := 0
  slots : Tab Slot := []
  /-- Next start order among slots and next loader-check order. -/
  slotSeq : Nat := 0
  passSeq : Nat := 0
  engines : Tab Engine := []
  /-- Windows: index 8 × engine + window. -/
  windows : Tab Window := []
  slices : Tab Slice := []
  /-- Codebook slots: index 2 × stream + slot. -/
  books : Tab CbSlot := []
  dram : Mem := []
  ports : Tab Port := []
  peers : Tab Peer := []
  sendRx : Tab SendRx := []
  sendTx : Tab SendTx := []
  streams : Tab Stream := []
  market : Market := {}
  tx : List TxFrame := []
  bell : Bell := {}
  book : Book := {}
  pins : Pins := {}
  power : Power := {}
  watch : Watch := {}
  sec : Sec := {}
  /-- Expert tables: index 1-4, and 16 + port for the gate control lists (TBLSEL 0x05). -/
  tables : Tab Table := []
  ctrs : Tab Ctr := []
deriving DecidableEq, Repr

/-- The value of an unlisted port: P0 is enabled at reset, and every port auto-negotiates at every rate (R747). -/
def Port.reset (n : Nat) : Port :=
  if n < 8 then { cfg := if n = 0 then 0x79 else 0x78 } else {}

/-- The machine right after PORST_N, before the boot of R681: PSTATE reads BOOTING and every register holds its
value of R733, R735, R737, R744, R745, R747, R750 and R751. -/
def State.reset : State := { ports := (List.range 8).map fun n => (n, Port.reset n) }

end Sys2Proof.Machine
end

