-- ==== Sys2Proof/Machine/Ops.lean ====
section
/-! DEFINITION. The named operations over tables, memory, counters, free values and time that every command uses. -/

namespace Sys2Proof.Machine

/-! ## Sparse tables -/

/-- The value at index `k`; `d` where nothing is listed. -/
def Tab.get {α : Type} (d : α) : Tab α → Nat → α
  | [], _ => d
  | (k', v) :: m, k => if k = k' then v else Tab.get d m k

/-- A table without index `k`. -/
def Tab.drop {α : Type} (m : Tab α) (k : Nat) : Tab α := m.filter fun e => e.1 != k

/-- Store `v` at index `k`, keeping the indices rising and leaving out entries that equal `d`. -/
def Tab.set {α : Type} [DecidableEq α] (d : α) : Tab α → Nat → α → Tab α
  | [], k, v => if v = d then [] else [(k, v)]
  | (k', v') :: m, k, v =>
    if k < k' then (if v = d then (k', v') :: Tab.drop m k else (k, v) :: (k', v') :: m)
    else if k = k' then (if v = d then Tab.drop m k else (k, v) :: m)
    else (k', v') :: Tab.set d m k v

/-- The canonical form: indices strictly rising, no entry equal to the default. -/
def Tab.wf {α : Type} [DecidableEq α] (d : α) : Tab α → Bool
  | [] => true
  | (k, v) :: m => decide (v ≠ d) && m.all (fun e => k < e.1) && Tab.wf d m

/-- Store a list of bytes from index `a` up. -/
def Mem.setBytes (d : Byte) : Mem → Nat → List Byte → Mem
  | m, _, [] => m
  | m, a, b :: bs => Mem.setBytes d (Tab.set d m a b) (a + 1) bs

/-- `n` bytes from index `a` up. -/
def Mem.getBytes (d : Byte) (m : Mem) (a n : Nat) : List Byte := (List.range n).map fun i => Tab.get d m (a + i)

/-! ## Bytes and numbers (R13: little-endian) -/

/-- The number a little-endian byte list holds. -/
def leNat : List Byte → Nat
  | [] => 0
  | b :: bs => b.toNat + 256 * leNat bs

/-- The low `n` bytes of a number, least significant first. -/
def leBytes : Nat → Nat → List Byte
  | 0, _ => []
  | n + 1, v => BitVec.ofNat 8 v :: leBytes n (v / 256)

/-- Bits `hi` to `lo` of a number. -/
def bitsOf (v hi lo : Nat) : Nat := v / 2 ^ lo % 2 ^ (hi + 1 - lo)

/-- Bit `i` of a number. -/
def bitOf (v i : Nat) : Bool := v.testBit i

/-- The little-endian number of `n` bytes at `off` in a byte list; bytes past the end read zero. -/
def fld (bs : List Byte) (off n : Nat) : Nat := leNat ((bs.drop off).take n)

/-- A number of `w` bits read as two's complement. -/
def toSigned (w v : Nat) : Int :=
  let v := v % 2 ^ w
  if v < 2 ^ (w - 1) then (v : Int) else (v : Int) - (2 ^ w : Nat)

/-- The low `w` bits of an integer's two's complement. -/
def ofSigned (w : Nat) (x : Int) : Nat := (x % (2 ^ w : Nat)).toNat

/-- Division rounding up. -/
def ceilDiv (a b : Nat) : Nat := (a + b - 1) / b

/-- The least multiple of `b` not below `a`. -/
def alignUp (a b : Nat) : Nat := ceilDiv a b * b

/-- Base-2 logarithm rounded up. -/
def ceilLog2 (n : Nat) : Nat := if n ≤ 1 then 0 else Nat.log2 (n - 1) + 1

/-- Put `v` at position `i` of a list, lengthening it with `d` as needed. -/
def listSet {α : Type} (d : α) : List α → Nat → α → List α
  | [], 0, v => [v]
  | [], n + 1, v => d :: listSet d [] n v
  | _ :: l, 0, v => v :: l
  | x :: l, n + 1, v => x :: listSet d l n v

/-- Repeat a state change for each element of a list, in order. -/
def forEach {α : Type} (l : List α) (f : α → State → State) (s : State) : State := l.foldl (fun s a => f a s) s

/-! ## Parts of the state -/

def State.eng (s : State) (n : Nat) : Engine := Tab.get {} s.engines n
def State.setEng (s : State) (n : Nat) (e : Engine) : State := { s with engines := Tab.set {} s.engines n e }
def State.modEng (s : State) (n : Nat) (f : Engine → Engine) : State := s.setEng n (f (s.eng n))

def State.queue (s : State) (n : Nat) : Queue := Tab.get {} s.queues n
def State.setQueue (s : State) (n : Nat) (q : Queue) : State := { s with queues := Tab.set {} s.queues n q }
def State.modQueue (s : State) (n : Nat) (f : Queue → Queue) : State := s.setQueue n (f (s.queue n))

def State.job (s : State) (n : Nat) : JobRec := Tab.get {} s.jobs n
def State.setJob (s : State) (n : Nat) (j : JobRec) : State := { s with jobs := Tab.set {} s.jobs n j }
def State.modJob (s : State) (n : Nat) (f : JobRec → JobRec) : State := s.setJob n (f (s.job n))

def State.run (s : State) (n : Nat) : JobRun := Tab.get {} s.runs n
def State.setRun (s : State) (n : Nat) (j : JobRun) : State := { s with runs := Tab.set {} s.runs n j }
def State.modRun (s : State) (n : Nat) (f : JobRun → JobRun) : State := s.setRun n (f (s.run n))

def State.area (s : State) (n : Nat) : Area := Tab.get {} s.areas n
def State.setArea (s : State) (n : Nat) (a : Area) : State := { s with areas := Tab.set {} s.areas n a }
def State.modArea (s : State) (n : Nat) (f : Area → Area) : State := s.setArea n (f (s.area n))

def State.slot (s : State) (n : Nat) : Slot := Tab.get {} s.slots n
def State.setSlot (s : State) (n : Nat) (a : Slot) : State := { s with slots := Tab.set {} s.slots n a }
def State.modSlot (s : State) (n : Nat) (f : Slot → Slot) : State := s.setSlot n (f (s.slot n))

/-- Window `w` of engine `e` (R348). -/
def State.window (s : State) (e w : Nat) : Window := Tab.get {} s.windows (8 * e + w)
def State.setWindow (s : State) (e w : Nat) (x : Window) : State :=
  { s with windows := Tab.set {} s.windows (8 * e + w) x }
def State.modWindow (s : State) (e w : Nat) (f : Window → Window) : State := s.setWindow e w (f (s.window e w))

def State.slice (s : State) (n : Nat) : Slice := Tab.get {} s.slices n
def State.setSlice (s : State) (n : Nat) (x : Slice) : State := { s with slices := Tab.set {} s.slices n x }
def State.modSlice (s : State) (n : Nat) (f : Slice → Slice) : State := s.setSlice n (f (s.slice n))

/-- Slot `i` of a stream's two codebook slots (R420). -/
def State.cbSlot (s : State) (st i : Nat) : CbSlot := Tab.get {} s.books (2 * st + i)
def State.setCbSlot (s : State) (st i : Nat) (x : CbSlot) : State := { s with books := Tab.set {} s.books (2 * st + i) x }

def State.port (s : State) (n : Nat) : Port := Tab.get {} s.ports n
def State.setPort (s : State) (n : Nat) (x : Port) : State := { s with ports := Tab.set {} s.ports n x }
def State.modPort (s : State) (n : Nat) (f : Port → Port) : State := s.setPort n (f (s.port n))

def State.peer (s : State) (n : Nat) : Peer := Tab.get {} s.peers n
def State.setPeer (s : State) (n : Nat) (x : Peer) : State := { s with peers := Tab.set {} s.peers n x }
def State.modPeer (s : State) (n : Nat) (f : Peer → Peer) : State := s.setPeer n (f (s.peer n))

def State.rx (s : State) (n : Nat) : SendRx := Tab.get {} s.sendRx n
def State.setRx (s : State) (n : Nat) (x : SendRx) : State := { s with sendRx := Tab.set {} s.sendRx n x }
def State.stx (s : State) (n : Nat) : SendTx := Tab.get {} s.sendTx n
def State.setStx (s : State) (n : Nat) (x : SendTx) : State := { s with sendTx := Tab.set {} s.sendTx n x }

def State.stream (s : State) (n : Nat) : Stream := Tab.get {} s.streams n
def State.setStream (s : State) (n : Nat) (x : Stream) : State := { s with streams := Tab.set {} s.streams n x }
def State.modStream (s : State) (n : Nat) (f : Stream → Stream) : State := s.setStream n (f (s.stream n))

def State.table (s : State) (n : Nat) : Table := Tab.get {} s.tables n
def State.setTable (s : State) (n : Nat) (x : Table) : State := { s with tables := Tab.set {} s.tables n x }
def State.modTable (s : State) (n : Nat) (f : Table → Table) : State := s.setTable n (f (s.table n))

def State.cell (s : State) (n : Nat) : Option Deposit := Tab.get none s.cells n
def State.setCell (s : State) (n : Nat) (x : Option Deposit) : State := { s with cells := Tab.set none s.cells n x }

/-- The index of a path's context (R720). -/
def pathCtx : Path → Nat
  | .bus => 0
  | .tap => 1
  | .onchip => 2
  | .port p => 3 + p.val

def State.ctx (s : State) (p : Path) : Ctx := Tab.get {} s.ctxs (pathCtx p)
def State.setCtx (s : State) (p : Path) (c : Ctx) : State := { s with ctxs := Tab.set {} s.ctxs (pathCtx p) c }
def State.modCtx (s : State) (p : Path) (f : Ctx → Ctx) : State := s.setCtx p (f (s.ctx p))

def State.modDev (s : State) (f : Dev → Dev) : State := { s with dev := f s.dev }
def State.modBell (s : State) (f : Bell → Bell) : State := { s with bell := f s.bell }
def State.modBook (s : State) (f : Book → Book) : State := { s with book := f s.book }
def State.modPower (s : State) (f : Power → Power) : State := { s with power := f s.power }
def State.modWatch (s : State) (f : Watch → Watch) : State := { s with watch := f s.watch }
def State.modSec (s : State) (f : Sec → Sec) : State := { s with sec := f s.sec }
def State.modPins (s : State) (f : Pins → Pins) : State := { s with pins := f s.pins }

/-! ## DRAM -/

/-- A byte of DRAM; one that nothing has written reads zero (log 2). -/
def State.byte (s : State) (a : Nat) : Byte := Tab.get 0 s.dram a
/-- `n` bytes of DRAM from address `a` up. -/
def State.bytes (s : State) (a n : Nat) : List Byte := Mem.getBytes 0 s.dram a n
/-- Write bytes to DRAM from address `a` up. -/
def State.write (s : State) (a : Nat) (bs : List Byte) : State := { s with dram := Mem.setBytes 0 s.dram a bs }

/-! ## Counters (R755-R757) -/

/-- The place of a counter in the table: GROUP, INST and CNT as `TBLADDR` holds them without the half. -/
def ctrIndex (g i c : Nat) : Nat := g * 32768 + i * 128 + c
/-- The value of a counter. -/
def State.ctr (s : State) (g i c : Nat) : Ctr := Tab.get 0 s.ctrs (ctrIndex g i c)
/-- Add to a counter, wrapping at 40 bits. -/
def State.bump (s : State) (g i c n : Nat) : State :=
  { s with ctrs := Tab.set 0 s.ctrs (ctrIndex g i c) (s.ctr g i c + BitVec.ofNat 40 n) }

/-! ## Free values and time -/

/-- The next value the spec leaves open (log 1). -/
def State.free (s : State) : Nat := Config.freeNat s.fresh
/-- The state after a free value has been used. -/
def State.used (s : State) (n : Nat := 1) : State := { s with fresh := s.fresh + n }
/-- Add a free amount to a counter whose count the spec does not fix. -/
def State.bumpFree (s : State) (g i c : Nat) : State := (s.bump g i c s.free).used

/-- The 802.1AS time at the next reading of the clock (log 5). -/
def State.now (s : State) : Nat := (s.dev.time + BitVec.ofNat 64 (Config.elapsed s.dev.clk)).toNat
/-- The state after that reading. -/
def State.tick (s : State) : State :=
  s.modDev fun d => { d with time := BitVec.ofNat 64 s.now, clk := d.clk + 1 }

/-- Put a frame on the wire. -/
def State.emit (s : State) (f : TxFrame) : State := { s with tx := s.tx ++ [f] }

end Sys2Proof.Machine
end

