-- ==== Sys2Proof/Machine/Crc.lean ====
section
/-! DEFINITION. The checks that stored formats carry: CRC-32C (R20) and the Parish Book's CRC-16 (R600). -/

namespace Sys2Proof.Machine

/-- `n` bit steps of the reflected CRC-32C register (polynomial 0x1EDC_6F41, reversed 0x82F6_3B78). -/
def crc32cBits : Nat → BitVec 32 → BitVec 32
  | 0, c => c
  | n + 1, c => crc32cBits n (if c.getLsbD 0 then (c >>> 1) ^^^ 0x82F63B78 else c >>> 1)

/-- CRC-32C of a byte list: reflected, all-ones initial value and final inversion (PRESUMED, log 7). -/
def crc32c (bs : List Byte) : Word :=
  ~~~ (bs.foldl (fun c b => crc32cBits 8 (c ^^^ b.setWidth 32)) (BitVec.allOnes 32))

/-- `n` bit steps of the CRC-16 register (polynomial 0x1021, not reflected). -/
def crc16Bits : Nat → Half → Half
  | 0, c => c
  | n + 1, c => crc16Bits n (if c.getLsbD 15 then (c <<< 1) ^^^ 0x1021 else c <<< 1)

/-- The CRC-16 of R600: initial value 0xFFFF, no reflection, no final inversion. -/
def crc16 (bs : List Byte) : Half :=
  bs.foldl (fun c b => crc16Bits 8 (c ^^^ ((BitVec.setWidth 16 b) <<< (8 : Nat)))) 0xFFFF

end Sys2Proof.Machine
end

