-- ==== Sys2Proof/Machine/Flags.lean ====
section
/-! DEFINITION. Interrupt, fault-summary and status flags, and the pins that follow from them. -/

namespace Sys2Proof.Machine

/-! ## IRQSTAT (R735, R736) -/

/-- Set bits of IRQSTAT; a rise of an enabled bit calls for a notice (R736). -/
def State.setIrq (s : State) (bits : BitVec 11) : State :=
  let rise := bits &&& s.dev.irqen &&& ~~~ s.dev.irqstat
  s.modDev fun d => { d with irqstat := d.irqstat ||| bits, irqDue := d.irqDue || decide (rise ≠ 0) }

def irqCpl : BitVec 11 := 0x001
def irqQhold : BitVec 11 := 0x002
def irqFault : BitVec 11 := 0x004
def irqWatch : BitVec 11 := 0x008
def irqWake : BitVec 11 := 0x010
def irqPf : BitVec 11 := 0x020
def irqLink : BitVec 11 := 0x040
def irqRecov : BitVec 11 := 0x080
def irqAuth : BitVec 11 := 0x100
def irqPbfl : BitVec 11 := 0x200
def irqTherm : BitVec 11 := 0x400

/-! ## FLTSUM and ALERT_N (R590, R591) -/

def fsCset : Byte := 0x01
def fsDset : Byte := 0x02
def fsSset : Byte := 0x04
def fsXset : Byte := 0x08
def fsAlert : Byte := 0x10
def fsPbfull : Byte := 0x20
def fsPbdrop : Byte := 0x40
def fsInjdone : Byte := 0x80

/-- An ALERT cause: FLTSUM.ALERT sets; ALERT_N goes low for at least its minimum time, or, when it is low already, is
released for 1 µs and goes low again (R590). -/
def State.alert (s : State) : State :=
  let s := s.modBell fun b => { b with fltsum := b.fltsum ||| fsAlert }
  if s.pins.alertLow then s.modPins fun p => { p with alertPulse := true, alertMin := true }
  else s.modPins fun p => { p with alertLow := true, alertMin := true }

/-- Set FLTSUM bits other than ALERT. IRQSTAT.FAULT follows DSET, SSET and XSET when they become set (R735); PBFULL and
PBDROP are ALERT causes (R591). -/
def State.setFlt (s : State) (bits : Byte) : State :=
  let rise := bits &&& ~~~ s.bell.fltsum
  let s := s.modBell fun b => { b with fltsum := b.fltsum ||| bits }
  let s := if rise &&& (fsDset ||| fsSset ||| fsXset) ≠ 0 then s.setIrq irqFault else s
  if rise &&& (fsPbfull ||| fsPbdrop) ≠ 0 then s.alert else s

/-- Software clears FLTSUM bits. ALERT_N is released when ALERT is clear and its minimum low time has ended (R590). -/
def State.clearFlt (s : State) (bits : Byte) : State :=
  let s := s.modBell fun b => { b with fltsum := b.fltsum &&& ~~~ bits }
  if bits &&& fsAlert ≠ 0 ∧ s.pins.alertMin = false then s.modPins fun p => { p with alertLow := false } else s

/-! ## Derived status -/

/-- Power states (R620): OFF 0, HEARTH-side codes as `DEVSTAT.PSTATE` gives them. -/
def psActive : BitVec 3 := 0
def psIdle : BitVec 3 := 1
def psStandby : BitVec 3 := 2
def psWatch : BitVec 3 := 3
def psEntering : BitVec 3 := 4
def psRestoring : BitVec 3 := 5
def psBooting : BitVec 3 := 6
def psOff : BitVec 3 := 7

/-! ## What is powered (R621, R652) -/

/-- The Market, its ports and the register path through them are powered. -/
def State.netUp (s : State) : Bool :=
  s.dev.bootok && !s.pins.thermtrip && s.dev.pstate != psWatch && s.dev.pstate != psOff &&
    !(s.dev.pstate == psRestoring && s.power.restoreFrom == psWatch)

/-- DRAM is on, and not in self-refresh. -/
def State.dramUp (s : State) : Bool :=
  s.dev.bootok && !s.pins.thermtrip && (s.dev.pstate == psActive || s.dev.pstate == psIdle || s.dev.pstate == psEntering)

/-- In STANDBY, or restoring from it (R532 step 4). -/
def State.waking (s : State) : Bool :=
  s.dev.pstate == psStandby || (s.dev.pstate == psRestoring && s.power.restoreFrom == psStandby)

/-! ## Status -/

/-- Entries that are not FREE (R461). -/
def State.usedEntries (s : State) : Nat := (s.ledger.filter fun e => e.2.st ≠ .free).length

/-- `DEVSTAT.DEGRADED` (R577). -/
def State.degraded (s : State) : Bool :=
  s.engines.any (fun e => e.2.fenced) || s.slices.any (fun e => e.2.disabled) || s.ports.any (fun e => e.2.downf)

/-- `DEVSTAT.READY` (R735). -/
def State.ready (s : State) : Bool :=
  s.dev.bootok && s.dev.rdone && !s.dev.halted && (s.dev.pstate == psActive || s.dev.pstate == psIdle)

/-- The value of FSTATE (R580). -/
def fstateCode : FState → Nat
  | .normal => 0
  | .fault => 1
  | .halted => 2
  | .latched => 3

/-- A FLT cause is in force (R587). -/
def State.fltCause (s : State) : Bool := s.bell.cflt || s.bell.reactions.any (fun r => r.flt)

/-- The levels of FLT_P and FLT_N (R587). -/
def State.fltPins (s : State) : Bool × Bool :=
  if s.power.inhibit then (false, false)
  else if s.dev.pstate == psOff || !s.dev.bootok || s.fltCause then (false, true)
  else (true, false)

/-- Engines admitted to work: not fenced, not retired, not in self-test, not disabled by `ENGCTL` (R262). -/
def State.engineMayClaim (s : State) (n : Nat) : Bool :=
  let e := s.eng n
  !e.fenced && !e.testing && !(s.dev.dis.getLsbD n) && !s.dev.halted && !s.pins.thermtrip

end Sys2Proof.Machine
end

