-- ==== Sys2Proof/Machine/Book.lean ====
section
/-! DEFINITION. The Parish Book: making records, flushing them to flash, reading and clearing (R598-R611). -/

namespace Sys2Proof.Machine

/-- The 32 bytes of a record at a position of the Book (R598); the CRC covers bytes 0 to 29 (R600). -/
def recBytes (r : Rec) (seq : Nat) : List Byte :=
  let body := leBytes 2 r.code.toNat ++ leBytes 2 r.flags.toNat ++ leBytes 4 r.opsecs.toNat ++ leBytes 4 r.pcycles.toNat ++
    leBytes 4 r.p0.toNat ++ leBytes 4 r.p1.toNat ++ leBytes 4 r.p2.toNat ++ leBytes 4 r.p3.toNat ++ leBytes 2 seq
  body ++ leBytes 2 (crc16 body).toNat

/-- A record made now: OPSECS, PCYCLES, PSTATE and the lifecycle code as they stand (R598, R599). -/
def State.mkRec (s : State) (code : Nat) (p0 p1 p2 p3 : Nat) (fl : Nat := 0) : Rec :=
  { code := BitVec.ofNat 16 code
    flags := BitVec.ofNat 16 (fl + s.dev.pstate.toNat * 256 + s.sec.lc.toNat * 4096)
    opsecs := s.dev.opsecs, pcycles := s.dev.pcycles
    p0 := BitVec.ofNat 32 p0, p1 := BitVec.ofNat 32 p1, p2 := BitVec.ofNat 32 p2, p3 := BitVec.ofNat 32 p3 }

/-- Code of the PFAIL record (R602), which alone may hold the reserved slot (R603). -/
def codePfail : Nat := 0x0300

/-- Records outside the reserved slot. -/
def Book.ordinary (b : Book) : Nat := (b.buf.filter fun r => r.code ≠ BitVec.ofNat 16 codePfail).length

/-- End of a flush, however it ends (R612): the counter, BUSY, IRQSTAT.PBFL, and IRQSTAT.PF where PFSTAT.FLUSHING fell (R735). -/
def State.flushEnd (s : State) : State :=
  let bits := if s.book.flushing then irqPbfl ||| irqPf else irqPbfl
  ((s.modBook fun b => { b with flushing := false, flushReq := false }).bump 12 0 3 1).setIrq bits

/-- Start a flush (R605). None starts while the region is being erased (R611) or the inhibit is set (R643); with nothing to
program, or the Book full, it ends at once. -/
def State.flush (s : State) : State :=
  if s.book.erasing || s.power.inhibit || s.book.flushing then s
  else if s.book.buf.isEmpty || s.book.full then s.flushEnd
  else (s.modBook fun b => { b with flushing := true }).setIrq irqPf

/-- Put a record into the buffer (R603, R604). Once the Book is full no record is made (R608). A record that finds the 127
ordinary slots taken is dropped and counted; the 96th record in the buffer starts a flush (R605). -/
def State.addRec (s : State) (r : Rec) : State :=
  if s.book.full then s
  else if s.book.ordinary ≥ 127 then
    ((s.modBook fun b => { b with dropped := b.dropped + 1 }).bump 12 0 2 1).setFlt fsPbdrop
  else
    let s := (s.modBook fun b => { b with buf := b.buf ++ [r] }).bump 12 0 1 1
    if s.book.buf.length ≥ 96 then s.flush else s

/-- Make a record of a code with its four parameters. -/
def State.record (s : State) (code p0 p1 p2 p3 : Nat) : State := s.addRec (s.mkRec code p0 p1 p2 p3)

/-- Place the PFAIL record in its reserved slot and start a flush (R607). One trigger in each armed period makes a record; a
reserved slot still taken keeps its record. -/
def State.pfailRecord (s : State) (trigger : Nat) : State :=
  if s.book.pfailArmed = false then s
  else
    let s := s.modBook fun b => { b with pfailArmed := false }
    if s.book.full then s.flush
    else
      let r := s.mkRec codePfail trigger s.book.buf.length 0 0
      ((s.modBook fun b => { b with buf := b.buf ++ [r] }).bump 12 0 1 1).flush

/-- Write one record to the next free position of the region. -/
def Book.program (b : Book) (r : Rec) : Book :=
  { b with region := Tab.set (BitVec.allOnes 256) b.region b.regn (BitVec.ofNat 256 (leNat (recBytes r b.regn)))
           regn := b.regn + 1 }

/-- One record of a flush is programmed (R605, R606, R608): the oldest leaves the buffer; BUF_DROPPED is made when a slot
frees after drops (R604); position 16,383 takes BOOK_FULL, after which recording stops. -/
def State.programNext (s : State) : State :=
  match s.book.buf with
  | [] => if s.book.flushing then s.flushEnd else s
  | r :: rest =>
    if s.book.flushing = false then s
    else if s.book.regn ≥ 16383 then
      let s := s.modBook fun b => { b.program (s.mkRec 0x0700 0 0 0 0) with full := true }
      ((s.bump 12 0 1 1).setFlt fsPbfull).flushEnd
    else
      let s := s.modBook fun b => { b.program r with buf := rest }
      let s := if s.book.dropped > 0 then
          let r := s.mkRec 0x0702 s.book.dropped 0 0 0
          (s.modBook fun b => { b with dropped := 0, buf := b.buf ++ [r] }).bump 12 0 1 1
        else s
      if s.book.buf.isEmpty then s.flushEnd else s

/-- Carry a flush to its end: at most one step for each record of the buffer and one more (R606). -/
def State.programAll : Nat → State → State
  | 0, s => s
  | n + 1, s => if s.book.flushing then programAll n s.programNext else s

/-- The write inhibit stops a flush, in the middle of a record: that slot counts as a record and is neither erased nor valid
(R603, R607); its bytes are a free value. -/
def State.cutFlush (s : State) : State :=
  if s.book.flushing then
    let s := if s.book.buf.isEmpty then s else
      (s.modBook fun b => { b with region := Tab.set (BitVec.allOnes 256) b.region b.regn (BitVec.ofNat 256 s.free)
                                   regn := b.regn + 1 }).used
    ((s.modBook fun b => { b with cut := true }).flushEnd).setIrq irqPf
  else s

/-- Record `i` of the Book as `PBCUR` reads it (R610): flash, then the buffer with its expected SEQ, then zero. -/
def Book.read (b : Book) (i : Nat) : List Byte :=
  if i < b.regn then leBytes 32 (Tab.get (BitVec.allOnes 256) b.region i).toNat
  else match b.buf[i - b.regn]? with
    | some r => recBytes r i
    | none => List.replicate 32 0

/-- Load the window of a path's context with record `i` (R610). -/
def State.loadPbwin (s : State) (p : Path) (i : Nat) : State :=
  let bs := s.book.read i
  s.modCtx p fun c => { c with
    pbcur := BitVec.ofNat 15 i
    pbwin := (List.range 8).foldl (fun t k => Tab.set 0 t k (BitVec.ofNat 32 (fld bs (4 * k) 4))) c.pbwin }

/-- An authorised clear starts (R611): a flush under way is completed first, then the erase runs. -/
def State.startClear (s : State) : State :=
  let s := State.programAll (s.book.buf.length + 1) s
  s.modBook fun b => { b with erasing := true, flushing := false }

/-- The erase ends (R611 step 4): BOOK_CLEARED is programmed at position 0 and the buffered records follow. The count is that
of the Book before the clearing. -/
def State.eraseEnd (s : State) : State :=
  if s.book.erasing = false then s
  else
    let r := s.mkRec 0x0701 s.book.regn 0 0 0
    let s := s.modBook fun b => { b with erasing := false, region := [], regn := 0, full := false }
    let s := s.modBook fun b => b.program r
    let s := s.bump 12 0 1 1
    if s.book.buf.isEmpty then s else s.flush

end Sys2Proof.Machine
end

