-- ==== Sys2Proof/Machine/Ledger.lean ====
section
/-! DEFINITION. The Ledger's two copies (R445-R448), reports waiting for the Bell, injected errors (R594, R595), and the
bytes of an entry (R450). -/

namespace Sys2Proof.Machine

/-- Send a report to the Bell, which handles reports one at a time when the command's own work is done (R560, R568). -/
def State.raise (s : State) (r : Report) : State := s.modBell fun b => { b with heldReports := b.heldReports ++ [r] }

/-! ## Fault injection (R594, R595) -/

/-- How many of the next `n` checks of a target the armed injection affects. -/
def State.injHits (s : State) (target unit n : Nat) : Nat :=
  if s.bell.injArmed && s.bell.injTarget.toNat == target && s.bell.injUnit.toNat == unit then min n s.bell.injLeft.toNat
  else 0

/-- Use up `n` injected errors; the last one disarms and sets INJDONE. -/
def State.useInj (s : State) (n : Nat) : State :=
  if n = 0 then s
  else if s.bell.injLeft.toNat ≤ n then
    (s.modBell fun b => { b with injLeft := 0, injArmed := false }).setFlt fsInjdone
  else s.modBell fun b => { b with injLeft := b.injLeft - BitVec.ofNat 8 n }

/-! ## Entries -/

/-- An entry as the Reeve reads it: the primary copy, or the mirror where the primary is uncorrectable (R447). -/
def State.entry (s : State) (e : Nat) : Entry :=
  if s.badP.contains e then Tab.get {} s.mirror e else Tab.get {} s.ledger e

/-- Forget everything the device holds of a job: its entry becomes FREE (R448, R455). -/
def State.freeEntry (s : State) (e : Nat) : State :=
  { s with ledger := Tab.set {} s.ledger e {}, mirror := Tab.set {} s.mirror e {}
           badP := s.badP.erase e, badM := s.badM.erase e, dev := { s.dev with retryDue := true }
           jobs := Tab.set {} s.jobs e {}, runs := Tab.set {} s.runs e {} }

/-- Drop the Tally slots and command areas a lost entry held. -/
def State.dropHoldings (s : State) (e : Nat) : State :=
  let s := forEach (List.range 64) (fun i s =>
    if (s.slot i).used && (s.slot i).entry.val == e then
      s.modSlot i fun sl => if sl.opn.isEmpty then {} else { sl with stopping := true, ret := [], nextT := sl.tcount, foldq := [] }
    else s) s
  forEach (List.range 64) (fun i s => if (s.area i).owner == some e then s.setArea i {} else s) s

/-- Both copies of an entry are uncorrectable (R448): LEDGER_LOST, and the entry becomes FREE. Whether a copy still yields the
queue is open. -/
def State.loseEntry (s : State) (e : Nat) : State :=
  let q := if s.free % 2 = 0 then (Tab.get {} s.ledger e).queue.toNat else 0xFF
  let s := s.used.raise { source := 0x22, inst := q, detail := BitVec.ofNat 32 e, queue := BitVec.ofNat 8 q }
  let s := s.modDev fun d => { d with lost := if d.lost = 0xFFFF then d.lost else d.lost + 1 }
  (s.dropHoldings e).freeEntry e

/-- A durable write of an entry (R446): read the primary under R447, merge the change, write both copies. -/
def State.writeEntry (s : State) (e : Nat) (f : Entry → Entry) : State :=
  if s.badP.contains e && s.badM.contains e then s.loseEntry e
  else
    let s' := if s.badP.contains e then s.raise { source := 0x21 } else s
    let x := f (s.entry e)
    let s' := { s' with ledger := Tab.set {} s'.ledger e x, mirror := Tab.set {} s'.mirror e x
                        badP := s'.badP.erase e, badM := s'.badM.erase e }
    let hp := s'.injHits 3 0 1
    let hm := s'.injHits 3 1 1
    let s' := if hp = 1 && s'.bell.injBits then { s' with badP := e :: s'.badP } else s'
    let s' := if hm = 1 && s'.bell.injBits then { s' with badM := e :: s'.badM } else s'
    s'.useInj (hp + hm)

/-- The 64 bytes of an entry (R450). BMAP names the progress area, each 4 KiB + 2 MiB long (R449). -/
def entryBytes (x : Entry) : List Byte :=
  let stc := match x.st with
    | .free => 0
    | .accepted => 1
    | .running => 2
    | .committed => 3
    | .posted => 4
  let b2n (b : Bool) (v : Nat) : Nat := if b then v else 0
  let jf := b2n x.rerun 1 + b2n x.replayed 2 + b2n x.degraded 4 + b2n x.const 8 + b2n x.form 16 + b2n x.cmt 32 + b2n x.cplack 64
  let sl := match x.slot with
    | some i => i.toNat + 64
    | none => 0
  let bm := match x.area with
    | some a => a.toNat * 513 + 1
    | none => 0
  let ss := x.donen.toNat + (match x.area with
    | some a => a.toNat * 2 ^ 25 + 2 ^ 31
    | none => 0)
  leBytes 4 x.jseq.toNat ++ leBytes 1 (x.queue.toNat + 32 * stc) ++ leBytes 1 jf ++ [x.status, x.replays] ++
    leBytes 6 x.list.toNat ++ leBytes 2 x.cidx.toNat ++ leBytes 2 x.fidx.toNat ++ leBytes 2 x.ncmd.toNat ++
    leBytes 2 x.cepoch.toNat ++ leBytes 1 sl ++ leBytes 1 (x.originId.toNat + b2n x.originHost 64) ++
    leBytes 1 x.port.toNat ++ [x.dstep, x.ddesc, 0] ++ leBytes 8 x.tag.toNat ++ leBytes 4 bm ++ leBytes 4 ss ++
    leBytes 4 x.acctime.toNat ++ List.replicate 16 0

/-- The entries of a queue that are not FREE, by index. -/
def State.queueEntries (s : State) (q : Nat) : List (Nat × Entry) :=
  (s.ledger.map fun p => (p.1, s.entry p.1)).filter fun p => decide (p.2.st ≠ .free) && p.2.queue.toNat == q

/-- `QSTAT.DEPTH` (R737). -/
def State.depth (s : State) (q : Nat) : Nat := (s.queueEntries q).length

/-- `QSTAT.DRAIN` (R740). -/
def State.drain (s : State) (q : Nat) : Bool := !(s.queue q).en && decide (s.depth q > 0)

/-- The entries that are ACCEPTED or RUNNING. -/
def State.liveEntries (s : State) : List (Nat × Entry) :=
  (s.ledger.map fun p => (p.1, s.entry p.1)).filter fun p => p.2.st == .accepted || p.2.st == .running

/-- A serial-number comparison of job numbers (R451): `a` was assigned before `b`. -/
def jseqBefore (a b : Word) : Bool := decide (0 < (b - a).toNat) && decide ((b - a).toNat < 2 ^ 31)

end Sys2Proof.Machine
end

