-- ==== Sys2Proof/Machine/Tally.lean ====
section
/-! DEFINITION. The Tally: claims, returns and epochs (R255-R275). -/

namespace Sys2Proof.Machine

/-! ## Epochs -/

/-- One epoch on, 0 skipped (R266, R272). -/
def epochNext (e : BitVec 16) : BitVec 16 := if e + 1 = 0 then 1 else e + 1

/-- Epoch `a` is older than epoch `b` (R271). -/
def epochOlder (a b : BitVec 16) : Bool := decide (1 ≤ (b - a).toNat) && decide ((b - a).toNat ≤ 32767)

/-! ## Handing out tiles (R257-R259, R273) -/

/-- The lowest index from `n` on whose bitmap bit is clear; the fuel is one more than the bits set. -/
def skipDone (done : List Nat) : Nat → Nat → Nat
  | 0, n => n
  | f + 1, n => if done.contains n then skipDone done f (n + 1) else n

/-- Insert into a rising list of indices. -/
def insertRet : List Nat → Nat → List Nat
  | [], t => [t]
  | x :: l, t => if t < x then t :: x :: l else if t = x then x :: l else x :: insertRet l t

/-- The tile a slot hands out next, and the slot after it: the lowest returned tile, else NEXT past the tiles done. -/
def Slot.take (sl : Slot) : Option (Nat × Slot) :=
  match sl.ret with
  | t :: l => some (t, { sl with ret := l })
  | [] =>
    let t := skipDone sl.doneTiles (sl.doneTiles.length + 1) sl.nextT
    if t < sl.tcount then some (t, { sl with nextT := t + 1 }) else none

/-- A slot that has a tile to hand out. -/
def Slot.ready (sl : Slot) : Bool := sl.used && !sl.stopping && sl.take.isSome

/-- Service order (R273): higher EPRIO first, then earlier SEQ. -/
def servedBefore (a b : Slot) : Bool := decide (a.eprio > b.eprio) || (a.eprio == b.eprio && decide (a.seq < b.seq))

/-- The first slot in service order with a tile to hand out. -/
def State.pickSlot (s : State) : Option Nat :=
  (List.range 64).foldl (fun best i =>
    if (s.slot i).ready then
      match best with
      | none => some i
      | some j => if servedBefore (s.slot i) (s.slot j) then some i else best
    else best) none

/-- One claim served as one atomic step (R257): EPRIO returns to PRIO (R274). -/
def State.serveClaim (s : State) (eng : Fin 24) : Option Grant × State :=
  match s.pickSlot with
  | none => (none, s)
  | some i =>
    match (s.slot i).take with
    | none => (none, s)
    | some (t, sl) =>
      (some { slot := i, tile := t, epoch := sl.epoch },
        s.setSlot i { sl with opn := sl.opn ++ [{ eng := eng, tile := t, stamp := sl.epoch }], eprio := sl.prio })

/-! ## Returns and stops (R266-R269) -/

/-- Release a slot. Its filters keep its EPOCH (R375), which the next command of the slot goes on from, so that no late write of an earlier
command carries its epoch (log 97). -/
def State.releaseSlot (s : State) (i : Nat) : State := s.setSlot i { epoch := (s.slot i).epoch }

/-- Release a slot that is stopping and has no open claim left (R269). -/
def State.releaseIfIdle (s : State) (i : Nat) : State :=
  if (s.slot i).stopping && (s.slot i).opn.isEmpty then s.releaseSlot i else s

/-- Send RESTAMP for a slot to every engine with an open claim of it. -/
def State.sendRestamps (s : State) (i : Nat) : State :=
  forEach (List.range 24) (fun n s =>
    if (s.slot i).opn.any (fun c => c.eng.val == n) then
      s.modEng n fun e => { e with inq := e.inq ++ [.restamp i (s.slot i).epoch] }
    else s) s

/-- AVAILABLE goes to every engine without an open claim, fenced engines left out (R261, R266). -/
def State.signalAvailable (s : State) : State :=
  forEach (List.range 24) (fun n s =>
    let e := s.eng n
    if e.fenced || e.islandOff || (List.range 64).any fun i => (s.slot i).opn.any fun c => c.eng.val == n then s
    else s.setEng n { e with inq := e.inq ++ [.available] }) s

/-- Advance a slot's EPOCH and record it in the entry of its command (R266 step 2, R270, R482 step 3). -/
def State.advanceEpoch (s : State) (i : Nat) : State :=
  let s := s.modSlot i fun sl => { sl with epoch := epochNext sl.epoch }
  if (s.slot i).stopping then s
  else s.writeEntry (s.slot i).entry.val fun x => { x with cepoch := (s.slot i).epoch }

/-- Move tiles of a slot into RET (R266 step 3); the job of a returned tile is REPLAYED (R482). -/
def State.toRet (s : State) (i : Nat) (ts : List Nat) : State :=
  if ts.isEmpty || (s.slot i).stopping then s
  else
    let s := (s.modSlot i fun sl => { sl with ret := ts.foldl insertRet sl.ret }).bump 1 0 1 ts.length
    s.writeEntry (s.slot i).entry.val fun x => { x with replayed := true }

/-- Steps 2 to 5 of R266 for one slot, for the claims of an engine that `p` selects. -/
def State.returnClaims (s : State) (i : Nat) (p : OpenClaim → Bool) : State :=
  let ts := ((s.slot i).opn.filter p).map fun c => c.tile
  let s := s.advanceEpoch i
  let s := s.modSlot i fun sl => { sl with opn := sl.opn.filter fun c => !p c }
  let s := (s.toRet i ts).sendRestamps i
  let s := if (s.slot i).ready then s.signalAvailable else s
  s.releaseIfIdle i

/-- Return the claims of a fenced engine, in every slot where it holds one (R266). -/
def State.returnEngine (s : State) (eng : Nat) : State :=
  forEach (List.range 64) (fun i s =>
    if (s.slot i).used && (s.slot i).opn.any (fun c => c.eng.val == eng) then
      s.returnClaims i fun c => c.eng.val == eng
    else s) s

/-- Withdraw a slot (R269, R571): EPOCH advances, tiles not issued are withdrawn, open claims get RESTAMP and are discarded.
The slot is released when every open claim has been answered. -/
def State.withdrawSlot (s : State) (i : Nat) : State :=
  if (s.slot i).used && !(s.slot i).stopping then
    let s := s.modSlot i fun sl => { sl with stopping := true, ret := [], nextT := sl.tcount, foldq := [] }
    (s.advanceEpoch i).sendRestamps i |>.releaseIfIdle i
  else s

/-- The slot an entry's command holds, if it is not being withdrawn. -/
def State.slotOf (s : State) (e : Nat) : Option Nat :=
  (List.range 64).find? fun i => (s.slot i).used && !(s.slot i).stopping && (s.slot i).entry.val == e

/-- A free Tally slot and a free command area, which the Reeve allocates together (R449). -/
def State.freeSlot (s : State) : Option Nat := (List.range 64).find? fun i => !(s.slot i).used
def State.freeArea (s : State) : Option Nat := (List.range 64).find? fun i => (s.area i).owner.isNone

/-! ## What an engine does with a RESTAMP (R267-R269) -/

/-- The tiles of a slot that an engine keeps under a RESTAMP: those that have issued no write, unless the slot is stopping. -/
def keepsTile (stopping : Bool) (slot : Nat) (c : Claim) : Bool := c.slot != slot || (!stopping && !c.wrote)

/-- Sectors of a request (R388): the 64-byte sectors its bytes touch. A window row may be longer than all credits together, which it then
takes one after another. -/
def sectorsOf (a n : Nat) : Nat := if n = 0 then 0 else (a + n - 1) / 64 - a / 64 + 1
def Req.sectors (r : Req) : Nat := sectorsOf r.fa r.len
def WReq.sectors (w : WReq) : Nat := min 256 (sectorsOf w.fa w.data.length)
def readSectors (l : List Req) : Nat := l.foldl (fun a r => a + r.sectors) 0
def writeSectors (l : List WReq) : Nat := l.foldl (fun a w => a + w.sectors) 0

/-- An engine drops tiles it has discarded: reads under way complete into discard (R394), writes under way go on under their old epoch,
and the Mill drops its blocks (R430). -/
def Engine.discard (e : Engine) (gone : Claim → Bool) : Engine :=
  match e.claims.find? fun c => gone c && c.phase != .claimed with
  | none => { e with claims := e.claims.filter fun c => !gone c }
  | some c =>
    { e with
      idle := false
      claims := e.claims.filter fun c => !gone c
      millKept := [], buf := [], todo := [], outs := [], rows := [], millOut := 0, wtodo := [], wouts := [], dep := none, sieve := none
      discOut := e.discOut + readSectors e.outs + e.millOut
      late := e.late ++ e.wouts.map fun w => (w, c.slot, c.epoch) }

/-- An engine handles a RESTAMP: tiles of the slot that have issued no write take the new epoch and are kept, the others are discarded;
the answer says which (R267-R269). -/
def State.engineRestamp (s : State) (n slot : Nat) (epoch : BitVec 16) : State :=
  let stopping := (s.slot slot).stopping
  let mine := (s.eng n).claims.filter fun c => c.slot == slot
  let gone := (mine.filter fun c => !keepsTile stopping slot c).map fun c => c.tile
  let kept := mine.filter fun c => keepsTile stopping slot c
  let s := s.modEng n fun e =>
    let e := e.discard fun c => !keepsTile stopping slot c
    { e with
      claims := e.claims.map fun c => if c.slot == slot then { c with epoch := epoch } else c
      dep := e.dep.map fun d => if d.slot == slot then { d with epoch := epoch } else d
      outq := e.outq ++ [.answer slot epoch (kept.map fun c => c.tile)] }
  (s.bump 0 n 15 kept.length).bump 0 n 16 gone.length

/-- The Tally takes an engine's answer for a slot (R268): a tile granted under an older epoch that the engine does not keep
moves into RET, or leaves a stopping slot (R269). -/
def State.tallyAnswer (s : State) (n slot : Nat) (epoch : BitVec 16) (keeps : List Nat) : State :=
  let gone (c : OpenClaim) : Bool := c.eng.val == n && epochOlder c.stamp epoch && !keeps.contains c.tile
  let back := ((s.slot slot).opn.filter gone).map fun c => c.tile
  let s := s.modSlot slot fun sl => { sl with opn := sl.opn.filter fun c => !gone c }
  let s := s.toRet slot back
  let s := if back.isEmpty || !(s.slot slot).ready then s else s.signalAvailable
  s.releaseIfIdle slot

end Sys2Proof.Machine
end

