-- ==== Sys2Proof/Machine/Jobs.lean ====
section
/-! DEFINITION. How commands and jobs end (R191, R248, R469), and codebook references (R420-R424). -/

namespace Sys2Proof.Machine

/-! ## Status codes (R246) -/

def stOk : Nat := 0x00
def stShape : Nat := 0x01
def stAlign : Nat := 0x02
def stCount : Nat := 0x03
def stCapacity : Nat := 0x04
def stState : Nat := 0x05
def stAlias : Nat := 0x06
def stFormat : Nat := 0x07
def stOrder : Nat := 0x08
def stCrc : Nat := 0x10
def stFaultAbort : Nat := 0x11
def stSkew : Nat := 0x12
def stWindow : Nat := 0x13
def stCancelled : Nat := 0x14
def stTimeout : Nat := 0x15
def stFenced : Nat := 0x16
def stAuth : Nat := 0x21

/-! ## The command at CIDX -/

/-- The address of the command entry at CIDX of a job (R187, R193). -/
def State.cmdAddr (s : State) (e : Nat) : Nat := (s.entry e).list.toNat + 64 * (s.entry e).cidx.toNat

/-- The 64 bytes of that entry. -/
def State.cmdBytes (s : State) (e : Nat) : List Byte := s.bytes (s.cmdAddr e) 64

/-- `CFLAGS.CONT` of the command at CIDX (R193). -/
def State.cmdCont (s : State) (e : Nat) : Bool := bitOf (fld (s.cmdBytes e) 5 1) 2

/-! ## Codebook references -/

/-- REF of a generation of a stream: the jobs that name it (R422, R427). -/
def State.cbRef (s : State) (st : Nat) (gen : BitVec 16) : Nat :=
  (s.jobs.filter fun j => j.2.cbrefs.any fun r => r.1.toNat == st && r.2 == gen).length

/-- R424: a RETIRING slot without references becomes EMPTY and the PENDING slot becomes CURRENT, in one step. -/
def State.swapBooks (s : State) (st : Nat) : State :=
  let a := s.cbSlot st 0
  let b := s.cbSlot st 1
  if a.st == .retiring && s.cbRef st a.gen == 0 then
    (s.setCbSlot st 0 {}).setCbSlot st 1 { b with st := if b.st == .pending then .current else b.st }
  else if b.st == .retiring && s.cbRef st b.gen == 0 then
    (s.setCbSlot st 1 {}).setCbSlot st 0 { a with st := if a.st == .pending then .current else a.st }
  else s

/-- R424 for all sixteen streams. -/
def State.swapAllBooks (s : State) : State := forEach (List.range 16) (fun st s => s.swapBooks st) s

/-! ## Ending a command or a job -/

/-- Give back the command areas of an entry. -/
def State.freeAreas (s : State) (e : Nat) : State :=
  forEach (List.range 64) (fun i s => if (s.area i).owner == some e then s.setArea i {} else s) s

/-- Release what a command holds: its command area, its part of a SCRUB, its codebook references and its other loader-check
results. -/
def State.releaseHold (s : State) (e : Nat) : State :=
  let s := s.freeAreas e
  let s := forEach (List.range 24) (fun n s =>
    if (s.eng n).scrubs.any fun p => p.1.val == e then s.modEng n fun x => { x with scrubs := x.scrubs.filter fun p => p.1.val != e } else s) s
  let s := s.modJob e fun j => { j with gens := (0, 0), gen := 0, cbrefs := [], staged := [], sendBase := 0, fpt := 0, psize := 0, mt := 0, draws := 0 }
  (s.setRun e {}).swapAllBooks

/-- A command completes with a status other than OK (R469, R248): STATUS, FIDX, DSTEP and DDESC are kept for the first such
command; the job goes on with the next entry under CONT and ends otherwise (R191). Its Tally slot is withdrawn (R269). -/
def State.endCommand (s : State) (e status : Nat) (step : Nat := 0) (ddesc : Nat := 0xFF) (cont : Bool := false) : State :=
  let s := match s.slotOf e with
    | some i => s.withdrawSlot i
    | none => s
  let s := s.writeEntry e fun x =>
    let x := if x.status = 0 then
        { x with status := BitVec.ofNat 8 status, fidx := x.cidx, dstep := BitVec.ofNat 8 step, ddesc := BitVec.ofNat 8 ddesc }
      else x
    let x := { x with cepoch := 0, slot := none, area := none, donen := 0, cmt := false }
    if cont && decide (x.cidx.toNat < 65535) then { x with cidx := x.cidx + 1 } else { x with st := .committed }
  (s.releaseHold e).modJob e fun j => { j with rerunPhase := false }

/-- The same with the command's own CONT flag. -/
def State.failCommand (s : State) (e status : Nat) (step : Nat := 0) (ddesc : Nat := 0xFF) : State :=
  s.endCommand e status step ddesc (s.cmdCont e)

/-- A command that has passed its loader checks and not completed. -/
def RunPhase.started : RunPhase → Bool
  | .waitSlot => true
  | .tiled => true
  | .acting => true
  | .finished => true
  | _ => false

/-- R574: every job of a stopped queue ends, its command with FAULT_ABORT if it had started and CANCELLED if not. -/
def State.abortQueue (s : State) (q : Nat) : State :=
  forEach (s.queueEntries q) (fun p s =>
    if p.2.st == .accepted || p.2.st == .running then
      s.endCommand p.1 (if (s.run p.1).phase.started then stFaultAbort else stCancelled)
    else s) s

/-- STOP_QUEUE (R574). -/
def State.stopQueue (s : State) (q : Nat) : State := (s.modQueue q fun x => { x with stopped := true }).abortQueue q

/-- The command of a Tally slot completes with a status (R433, R556, R571); nothing where the slot holds none. -/
def State.failSlot (s : State) (i status : Nat) : State :=
  if (s.slot i).used && !(s.slot i).stopping then s.failCommand (s.slot i).entry.val status else s

end Sys2Proof.Machine
end

