-- ==== Sys2Proof/Machine/Pairs.lean ====
section
/-! DEFINITION. Skouk endpoints, pairs and the frames the device sends (R513-R522). -/

namespace Sys2Proof.Machine

/-! ## Frame types (R515) -/

def tyAck : Nat := 0x00
def tyRreg : Nat := 0x01
def tyWreg : Nat := 0x02
def tyRmem : Nat := 0x03
def tyWmem : Nat := 0x04
def tyResp : Nat := 0x05
def tySubmit : Nat := 0x10
def tyAccept : Nat := 0x11
def tyDefer : Nat := 0x12
def tyRefuse : Nat := 0x13
def tyCpl : Nat := 0x14
def tyWwin : Nat := 0x20
def tySend : Nat := 0x21
def tyWack : Nat := 0x22
def tyWnak : Nat := 0x23
def tyStream : Nat := 0x30
def tyJoin : Nat := 0x40
def tyHello : Nat := 0x41
def tyEvent : Nat := 0x42

/-- Types that carry a SEQ (R515). -/
def sequencedType (t : Nat) : Bool :=
  [tyRreg, tyWreg, tyRmem, tyWmem, tyResp, tySubmit, tyAccept, tyDefer, tyRefuse, tyCpl, tyWwin, tySend, tyWack, tyWnak,
    tyJoin].contains t

/-- Types that R515 names. -/
def knownType (t : Nat) : Bool := sequencedType t || [tyAck, tyStream, tyHello, tyEvent].contains t

/-- The index of the endpoint a SRC or DST byte names: devices 0-63, hosts 64-127. -/
def epOf (b : Byte) : Nat := b.toNat % 128
/-- The byte that names an endpoint: ID in [5:0], HOST in [6]. -/
def epByte (ep : Nat) : Byte := BitVec.ofNat 8 (ep % 128)
/-- A host endpoint. -/
def isHost (ep : Nat) : Bool := decide (64 ≤ ep)

/-- Lay bytes over a byte list at an offset. -/
def putAt (bs : List Byte) (off : Nat) (xs : List Byte) : List Byte := bs.take off ++ xs ++ bs.drop (off + xs.length)

/-- A parameter field of 24 zero bytes. -/
def noParam : List Byte := List.replicate 24 0

/-- The role of a port (R500): 0 HOST, 1 SENSOR, 2 PEER, 3 TRUNK. -/
def Port.role (p : Port) : Nat := bitsOf p.cfg.toNat 2 1
/-- `PORTCFG.EN`. -/
def Port.en (p : Port) : Bool := bitOf p.cfg.toNat 0

/-- The payload size a port accepts (R499). -/
def Port.psize (p : Port) : Nat := if bitOf p.cfg.toNat 7 then 8192 else 1024

/-- The pair payload size (R499): the smaller of the two announced sizes. -/
def State.pairPsize (s : State) (ep : Nat) : Nat :=
  min (s.port (s.peer ep).port.toNat).psize (s.peer ep).psize.toNat

/-- The pair with an endpoint is ESTABLISHED (R546). -/
def Peer.established (p : Peer) : Bool := p.joined && p.joinAcked && !p.down

/-- The device's own Skouk MAC address (R505): 02-5C-4B-00-SS-II. -/
def State.ownMac (s : State) : BitVec 48 := BitVec.ofNat 48 (0x025C4B000000 + s.dev.sys.toNat * 256 + s.dev.id.toNat)
/-- The group address of the system (R505): 03-5C-4B-00-SS-FF. -/
def State.groupMac (s : State) : BitVec 48 := BitVec.ofNat 48 (0x035C4B0000FF + s.dev.sys.toNat * 256)

/-- The header every frame of the device carries towards an endpoint (R514, R519). -/
def State.frameTo (s : State) (ep ty : Nat) (param payload : List Byte) : SkFrame :=
  let p := s.peer ep
  { port := Fin.ofNat 8 p.port.toNat, dmac := p.mac, smac := s.ownMac, ver := 1, ty := BitVec.ofNat 8 ty
    src := BitVec.ofNat 8 s.dev.id.toNat, dst := epByte ep, seq := 0, ack := p.exp, flags := 1, sys := s.dev.sys
    bepoch := s.dev.epoch, lgen := s.dev.lgen, param := param, payload := payload, crcOk := true }

/-- The link of a port is up and carries data frames: on a MACsec port only while the channel is secured (R511). -/
def Port.carries (p : Port) : Bool := p.en && p.rate != 0 && (!bitOf p.cfg.toNat 8 || p.secured)

/-! ## Egress (R504, R510) -/

/-- The least length of the Ethernet frame that carries a Skouk frame: addresses, EtherType, header, payload, CRC and FCS, untagged and
unprotected (R498, R514). -/
def skLen (f : SkFrame) : Nat := 70 + f.payload.length

/-- The length of a frame in the packet memory. -/
def TxFrame.frameLen : TxFrame → Nat
  | .skouk _ _ f => skLen f
  | .bridged _ fr => fr.len
  | .tc10Sleep _ => 0

/-- Bytes of the shared packet memory in use (R504). -/
def State.packetBytes (s : State) : Nat :=
  (List.range 8).foldl (fun a n => (s.port n).egress.foldl (fun a f => a + f.2.frameLen) a) 0

/-- A frame leaves a port, counted in PTX (R559). -/
def State.leave (s : State) (n : Nat) (f : TxFrame) : State := (s.emit f).bump 5 n 1 1

/-- Hand a frame of a traffic class to a port. It leaves at once through an open gate; behind a closed one it waits, or is dropped and
counted in PDROP where the 4 MiB of packet memory are full. Each priority is a class of its own (R495, R504; log 110). -/
def State.egress (s : State) (n cls : Nat) (f : TxFrame) : State :=
  let p := s.port n
  if p.gates.getLsbD cls && !(p.egress.any fun x => x.1 == cls) then s.leave n f
  else if 4194304 < s.packetBytes + f.frameLen then s.bump 5 n 2 1
  else s.setPort n { p with egress := p.egress ++ [(cls, f)] }

/-- New gate states of a port: the frames of open classes leave, by strict priority, each class in order (R504, R510). -/
def State.setGates (s : State) (n : Nat) (g : Byte) : State :=
  let l := (s.port n).egress
  let out := ((List.range 8).reverse.map fun c => if g.getLsbD c then l.filter fun x => x.1 == c else []).flatten
  forEach out (fun x s => s.leave n x.2) (s.modPort n fun p => { p with gates := g, egress := l.filter fun x => !g.getLsbD x.1 })

/-- Put a Skouk frame on its port's wire with the port's VID and PCP (R513). -/
def State.txSk (s : State) (f : SkFrame) : State :=
  let p := s.port f.port.val
  let pcp := bitsOf p.cfg.toNat 26 24
  if p.carries then s.egress f.port.val pcp (.skouk (BitVec.ofNat 12 (bitsOf p.cfg.toNat 23 12)) (BitVec.ofNat 3 pcp) f)
  else s

/-- Send an unsequenced frame to an endpoint (R515). -/
def State.sendPlain (s : State) (ep ty : Nat) (param : List Byte) : State := s.txSk (s.frameTo ep ty param [])

/-- Give a frame the pair's next SEQ and send it (R517, R519). -/
def State.sendNumbered (s : State) (ep : Nat) (f : SkFrame) : State :=
  let p := s.peer ep
  let f := { f with seq := p.nextSeq, ack := p.exp, lgen := s.dev.lgen, port := Fin.ofNat 8 p.port.toNat }
  (s.setPeer ep { p with nextSeq := p.nextSeq + 1, unacked := p.unacked ++ [f], ackOwed := 0 }).txSk f

/-- Send a sequenced frame, or let it wait where 64 frames of the pair are unacknowledged (R520) or the pair is not up. -/
def State.sendSeq (s : State) (ep ty : Nat) (param payload : List Byte) : State :=
  let f := s.frameTo ep ty param payload
  let p := s.peer ep
  if p.joined && !p.down && p.waiting.isEmpty && decide (p.unacked.length < 64) then s.sendNumbered ep f
  else s.setPeer ep { p with waiting := p.waiting ++ [f] }

/-- A SEND frame that has not been sent is dropped when the epoch of its tile is stale (R558). -/
def State.staleSend (s : State) (ep : Nat) (f : SkFrame) : Bool :=
  f.ty.toNat == tySend && !((s.stx ep).out.any fun o =>
    o.frame.param == f.param && (s.slot o.slot).used && (s.slot o.slot).epoch == o.epoch)

/-- Send waiting frames while the pair is up and has room (R520); the fuel is the number that waits. -/
def State.drainWaiting : Nat → Nat → State → State
  | 0, _, s => s
  | n + 1, ep, s =>
    match (s.peer ep).waiting with
    | [] => s
    | f :: rest =>
      let p := s.peer ep
      if p.joined && !p.down && decide (p.unacked.length < 64) then
        let s' := s.setPeer ep { p with waiting := rest }
        drainWaiting n ep (if s.staleSend ep f then s' else s'.sendNumbered ep f)
      else s

/-- The endpoints that are joined partners of HOST ports. -/
def State.hostPartners (s : State) : List Nat :=
  (List.range 8).filterMap fun n =>
    if (s.port n).role == 0 then (s.port n).partner.map fun p => p.toNat else none

/-- Send an EVENT with a code and two words in PARAM bytes [7:4] and [11:8] to the partner of every HOST port. -/
def State.eventHosts (s : State) (code a b : Nat) : State :=
  forEach s.hostPartners (fun ep s =>
    s.sendPlain ep tyEvent (putAt (putAt (putAt noParam 0 (leBytes 2 code)) 4 (leBytes 4 a)) 8 (leBytes 4 b))) s

/-! ## Pairs going DOWN (R522) -/

/-- The SEND frames to a device that are not yet answered are answered FENCED: their commands complete with FENCED (R556). -/
def State.fenceSends (s : State) (dev : Nat) : State :=
  let outs := (s.stx dev).out
  let s := s.setStx dev { s.stx dev with out := [] }
  forEach outs (fun o s => if (s.slot o.slot).epoch == o.epoch then s.failSlot o.slot stFenced else s) s

/-- The pairs with an endpoint go DOWN. Unacknowledged frames other than SEND stay, to be re-numbered at the next JOIN
(R523); joining starts over (R546). -/
def State.pairDown (s : State) (ep : Nat) : State :=
  let p := s.peer ep
  if p.present && !p.down then
    let s := (s.setPeer ep { p with
      down := true, joinSent := false, joinAcked := false, timeouts := 0, ackRepeats := 0, ackOwed := 0
      unacked := p.unacked.filter fun f => f.ty.toNat != tySend && f.ty.toNat != tyJoin
      waiting := p.waiting.filter fun f => f.ty.toNat != tySend && f.ty.toNat != tyJoin }).bump 7 ep 2 1
    if isHost ep then s else s.fenceSends ep
  else s

/-- Every pair through a port goes DOWN. -/
def State.portPairsDown (s : State) (port : Nat) : State :=
  forEach (List.range 128) (fun ep s => if (s.peer ep).port.toNat == port then s.pairDown ep else s) s

/-- The link of a port is released: rate 0, no partner, pairs DOWN; IRQSTAT.LINK where LNKSTAT changed (R735). -/
def State.linkRelease (s : State) (port : Nat) : State :=
  let p := s.port port
  let s := s.setPort port { p with rate := 0, partner := none, secured := false, egress := [] }
  let s := if p.rate ≠ 0 || p.secured then s.setIrq irqLink else s
  s.portPairsDown port

end Sys2Proof.Machine
end

