-- ==== Sys2Proof/Machine/Float.lean ====
section
/-! DEFINITION. FP32 and BF16 arithmetic, round to nearest even, computed through exact rationals (R141, R158, R166, R173). -/

namespace Sys2Proof.Machine

/-- The value of an FP32 bit pattern: sign and magnitude of a rational, an infinity, or not a number. -/
inductive Fp where
  | fin (neg : Bool) (num den : Nat)
  | inf (neg : Bool)
  | nan
deriving DecidableEq, Repr

/-- Sign bit of a pattern. -/
def fpNeg (w : Word) : Bool := w.getLsbD 31

/-- Read an FP32 pattern. -/
def fpOf (w : Word) : Fp :=
  let e := bitsOf w.toNat 30 23
  let m := bitsOf w.toNat 22 0
  if e = 255 then (if m = 0 then .inf (fpNeg w) else .nan)
  else
    let mm := if e = 0 then m else m + 2 ^ 23
    let ee := if e = 0 then 1 else e
    if 150 ≤ ee then .fin (fpNeg w) (mm * 2 ^ (ee - 150)) 1 else .fin (fpNeg w) mm (2 ^ (150 - ee))

/-- Round a quotient of naturals to the nearest integer, ties to even. -/
def rneDiv (n d : Nat) : Nat :=
  let q := n / d
  let r := n % d
  if 2 * r > d ∨ (2 * r = d ∧ q % 2 = 1) then q + 1 else q

/-- Round a quotient of an integer by a natural to the nearest integer, ties to even. -/
def rneInt (n : Int) (d : Nat) : Int := if n < 0 then -((rneDiv n.natAbs d : Nat) : Int) else (rneDiv n.natAbs d : Nat)

/-- The pattern of a sign and magnitude bits. -/
def fpSigned (neg : Bool) (mag : Nat) : Word := BitVec.ofNat 32 (mag + if neg then 2 ^ 31 else 0)

/-- Round a magnitude `num / den` to FP32, ties to even; overflow gives infinity, underflow is gradual. -/
def fpRound (neg : Bool) (num den : Nat) : Word :=
  if num = 0 ∨ den = 0 then fpSigned neg 0
  else
    let ln : Int := (Nat.log2 num : Int) - (Nat.log2 den : Int)
    let below : Bool := if 0 ≤ ln then decide (num < den * 2 ^ ln.toNat) else decide (num * 2 ^ (-ln).toNat < den)
    let ex : Int := if below then ln - 1 else ln
    let e : Int := if ex < -126 then -126 else ex
    let sh : Int := e - 23
    let q := if 0 ≤ sh then rneDiv num (den * 2 ^ sh.toNat) else rneDiv (num * 2 ^ (-sh).toNat) den
    let bits := (e + 126).toNat * 2 ^ 23 + q
    fpSigned neg (if bits ≥ 0x7F800000 then 0x7F800000 else bits)

/-- The pattern of a result; a result that is not a number has an open payload (log 8). -/
def fpPack (a b : Word) : Fp → Word
  | .fin n p q => fpRound n p q
  | .inf n => fpSigned n 0x7F800000
  | .nan => Config.nanBits a b

/-- The exact sum of two values, before rounding. -/
def fpAddE : Fp → Fp → Fp
  | .nan, _ => .nan
  | _, .nan => .nan
  | .inf a, .inf b => if a = b then .inf a else .nan
  | .inf a, _ => .inf a
  | _, .inf b => .inf b
  | .fin a n d, .fin b m e =>
    let x : Int := (if a then -((n * e : Nat) : Int) else (n * e : Nat)) + (if b then -((m * d : Nat) : Int) else (m * d : Nat))
    if x = 0 then .fin (a && b) 0 1 else .fin (decide (x < 0)) x.natAbs (d * e)

/-- The negation of a value. -/
def fpNegE : Fp → Fp
  | .fin a n d => .fin (!a) n d
  | .inf a => .inf (!a)
  | .nan => .nan

/-- The exact product. -/
def fpMulE : Fp → Fp → Fp
  | .nan, _ => .nan
  | _, .nan => .nan
  | .inf a, .inf b => .inf (a != b)
  | .inf a, .fin b m _ => if m = 0 then .nan else .inf (a != b)
  | .fin a n _, .inf b => if n = 0 then .nan else .inf (a != b)
  | .fin a n d, .fin b m e => .fin (a != b) (n * m) (d * e)

/-- The exact quotient. -/
def fpDivE : Fp → Fp → Fp
  | .nan, _ => .nan
  | _, .nan => .nan
  | .inf _, .inf _ => .nan
  | .inf a, .fin b _ _ => .inf (a != b)
  | .fin a _ _, .inf b => .fin (a != b) 0 1
  | .fin a n d, .fin b m e => if m = 0 then (if n = 0 then .nan else .inf (a != b)) else .fin (a != b) (n * e) (d * m)

def fadd (a b : Word) : Word := fpPack a b (fpAddE (fpOf a) (fpOf b))
def fsub (a b : Word) : Word := fpPack a b (fpAddE (fpOf a) (fpNegE (fpOf b)))
def fmul (a b : Word) : Word := fpPack a b (fpMulE (fpOf a) (fpOf b))
def fdiv (a b : Word) : Word := fpPack a b (fpDivE (fpOf a) (fpOf b))

/-- The integer square root by bits, highest first. -/
def isqrtBits : Nat → Nat → Nat → Nat
  | 0, _, r => r
  | k + 1, n, r => if (r + 2 ^ k) * (r + 2 ^ k) ≤ n then isqrtBits k n (r + 2 ^ k) else isqrtBits k n r

/-- The FP32 square root. The radicand is scaled so that its root has more than 24 bits; a set low bit marks a remainder. -/
def fsqrt (a : Word) : Word :=
  match fpOf a with
  | .nan => Config.nanBits a a
  | .inf n => if n then Config.nanBits a a else a
  | .fin neg n d =>
    if n = 0 then a
    else if neg then Config.nanBits a a
    else
      let s := n * d * 2 ^ 320
      let r := isqrtBits (Nat.log2 s / 2 + 1) s 0
      fpRound false (2 * r + if r * r = s then 0 else 1) (2 * d * 2 ^ 160)

/-- An integer as FP32. -/
def fofInt (x : Int) : Word := fpRound (decide (x < 0)) x.natAbs 1
/-- A rational as FP32. -/
def fofRat (x : Int) (d : Nat) : Word := fpRound (decide (x < 0)) x.natAbs d

/-- The value of a finite pattern as numerator and denominator; a pattern that is not finite counts as zero. -/
def fpRat (w : Word) : Int × Nat :=
  match fpOf w with
  | .fin neg n d => ((if neg then -(n : Int) else n), d)
  | _ => (0, 1)

/-- Less-than of two patterns as reals and infinities; false where either is not a number. -/
def flt (a b : Word) : Bool :=
  match fpOf a, fpOf b with
  | .nan, _ => false
  | _, .nan => false
  | .inf x, .inf y => x && !y
  | .inf x, _ => x
  | _, .inf y => !y
  | .fin _ _ _, .fin _ _ _ => decide ((fpRat a).1 * (fpRat b).2 < (fpRat b).1 * (fpRat a).2)

def fmax (a b : Word) : Word := if flt a b then b else a
def fmin (a b : Word) : Word := if flt b a then b else a

/-- A positive, finite, normal pattern (R130). -/
def fpPosNormal (w : Word) : Bool :=
  let e := bitsOf w.toNat 30 23
  !fpNeg w && decide (1 ≤ e) && decide (e ≤ 254)

def fpInf (w : Word) : Bool := decide (bitsOf w.toNat 30 0 = 0x7F800000)
def fpNan (w : Word) : Bool := decide (bitsOf w.toNat 30 0 > 0x7F800000)
def fpZero : Word := 0

/-- The largest finite magnitude of FP32 and of BF16, with a sign. -/
def fpMaxFinite (neg : Bool) : Word := fpSigned neg 0x7F7FFFFF
def bfMaxFinite (neg : Bool) : Half := if neg then 0xFF7F else 0x7F7F

/-- BF16 by RNE (R151, R165). -/
def bfRne (w : Word) : Half :=
  let n := w.toNat
  if fpNan w then BitVec.ofNat 16 (n / 65536 + (if n / 65536 % 128 = 0 then 1 else 0)) else BitVec.ofNat 16 (rneDiv n 65536)

/-- BF16 by SR: the draw is added to the 16 discarded bits (R151). -/
def bfSr (w : Word) (r : Nat) : Half := BitVec.ofNat 16 ((w.toNat + r) / 65536)

/-- BF16 as FP32. -/
def bfWide (h : Half) : Word := BitVec.ofNat 32 (h.toNat * 65536)

/-! ## FP64, used only for the bias corrections of R173 -/

/-- Round a positive rational to FP64, ties to even (normal range). -/
def fp64Round (neg : Bool) (num den : Nat) : Quad :=
  if num = 0 ∨ den = 0 then BitVec.ofNat 64 (if neg then 2 ^ 63 else 0)
  else
    let ln : Int := (Nat.log2 num : Int) - (Nat.log2 den : Int)
    let below : Bool := if 0 ≤ ln then decide (num < den * 2 ^ ln.toNat) else decide (num * 2 ^ (-ln).toNat < den)
    let ex : Int := if below then ln - 1 else ln
    let e : Int := if ex < -1022 then -1022 else ex
    let sh : Int := e - 52
    let q := if 0 ≤ sh then rneDiv num (den * 2 ^ sh.toNat) else rneDiv (num * 2 ^ (-sh).toNat) den
    let bits := (e + 1022).toNat * 2 ^ 52 + q
    BitVec.ofNat 64 ((if bits ≥ 0x7FF0000000000000 then 0x7FF0000000000000 else bits) + if neg then 2 ^ 63 else 0)

/-- The value of a finite FP64 pattern; others count as zero. -/
def fp64Rat (w : Quad) : Int × Nat :=
  let e := bitsOf w.toNat 62 52
  let m := bitsOf w.toNat 51 0
  if e = 2047 then (0, 1)
  else
    let mm := if e = 0 then m else m + 2 ^ 52
    let ee := if e = 0 then 1 else e
    let x : Int := if w.getLsbD 63 then -(mm : Int) else mm
    if 1075 ≤ ee then (x * 2 ^ (ee - 1075), 1) else (x, 2 ^ (1075 - ee))

end Sys2Proof.Machine
end

