-- ==== Sys2Proof/Machine/Cells.lean ====
section
/-! DEFINITION. Cells and columns: the row buses, the weight registers, partial sums with their residues, the Smithy, and the Stook's
updates under the residue and parity checks (R60-R95, R101-R122). -/

namespace Sys2Proof.Machine

/-- A value mod 3, in 0 to 2, as R113 takes it. -/
def mod3 (x : Int) : Nat := (x % 3).toNat

/-! ## Nibbles (R74) -/

def hiNib (v : Int) : Int := v / 16
def loNib (v : Int) : Int := v - 16 * (v / 16)

/-! ## Slots of the row bus and of the weight registers (R68-R72)

Channel `k` of a pass is in row `k mod 128`, slot `k / 128`. -/

/-- Operands that a row takes in one vector: one for each slot. -/
def slotCount (mode : Nat) : Nat := if mode = 1 ∨ mode = 2 then 2 else if mode = 3 ∨ mode = 4 then 4 else 1

/-- The 12-bit bus of a row in a sub-cycle, from the operands of its slots (R69). -/
def busWord (mode sub : Nat) (ops : List Int) : BitVec 12 :=
  let at_ (i : Nat) : Int := (ops[i]?).getD 0
  if mode = 1 ∨ mode = 2 then BitVec.ofNat 12 (ofSigned 6 (at_ 0) + 64 * ofSigned 6 (at_ 1))
  else if mode = 3 ∨ mode = 4 then
    BitVec.ofNat 12 ((List.range 4).foldl (fun a i => a + 8 ^ i * ofSigned 3 (at_ i)) 0)
  else if mode = 5 ∨ mode = 6 ∨ mode = 7 then
    BitVec.ofNat 12 (ofSigned 6 (if sub % 2 = 0 then loNib (at_ 0) else hiNib (at_ 0)))
  else BitVec.ofNat 12 (ofSigned 6 (at_ 0))

/-- The 2-bit slot code of a ternary or binary weight (R71, R72). -/
def slotCode (w : Int) : Nat := if w = 0 then 0 else if 0 < w then 1 else 3
def ofSlotCode (c : Nat) : Int := if c = 1 then 1 else if c = 3 then -1 else 0

/-- A cell's weight register, from the weight operands of its slots (R70). -/
def weightWord (mode : Nat) (ws : List Int) : BitVec 10 :=
  let at_ (i : Nat) : Int := (ws[i]?).getD 0
  if mode = 1 ∨ mode = 2 then BitVec.ofNat 10 (ofSigned 5 (at_ 0) + 32 * ofSigned 5 (at_ 1))
  else if mode = 3 ∨ mode = 4 then BitVec.ofNat 10 ((List.range 4).foldl (fun a i => a + 4 ^ i * slotCode (at_ i)) 0)
  else if mode = 6 ∨ mode = 7 then BitVec.ofNat 10 (ofSigned 5 (loNib (at_ 0)) + 32 * ofSigned 5 (hiNib (at_ 0)))
  else BitVec.ofNat 10 (ofSigned 5 (at_ 0))

/-- The operand pairs a cell multiplies in a sub-cycle: slot by slot, as bus and register hold them (R69, R70, R75). -/
def cellPairs (mode sub : Nat) (bus : BitVec 12) (w : BitVec 10) : List (Int × Int) :=
  let b := bus.toNat
  let r := w.toNat
  if mode = 1 ∨ mode = 2 then
    (List.range 2).map fun i => (toSigned 6 (b / 64 ^ i), toSigned 5 (r / 32 ^ i))
  else if mode = 3 ∨ mode = 4 then
    (List.range 4).map fun i => (toSigned 3 (b / 8 ^ i), ofSlotCode (r / 4 ^ i % 4))
  else if mode = 6 ∨ mode = 7 then [(toSigned 6 b, toSigned 5 (if sub < 2 then r else r / 32))]
  else [(toSigned 6 b, toSigned 5 r)]

/-- The term a cell adds to its column (R73). -/
def cellTerm (l : List (Int × Int)) : Int := l.foldl (fun a p => a + p.1 * p.2) 0
/-- The residue it adds to the column's residue tree (R113). -/
def cellRes (l : List (Int × Int)) : Nat := l.foldl (fun a p => (a + mod3 p.1 * mod3 p.2) % 3) 0

/-- The power of two that weights a sub-cycle's partial sum (R75). -/
def subWeight (mode sub : Nat) : Int :=
  if mode = 5 then (if sub = 0 then 1 else 16)
  else if mode = 6 ∨ mode = 7 then (if sub = 0 then 1 else if sub = 3 then 256 else 16)
  else 1

/-- A column's partial sum of a vector and sub-cycle, weighted, and its residue, which no shift changes (R73, R75, R113, R114). -/
def columnSum (mode sub : Nat) (bus : Nat → BitVec 12) (w : Nat → BitVec 10) : Int × Nat :=
  let r := (List.range 128).foldl (fun (a : Int × Nat) row =>
    let l := cellPairs mode sub (bus row) (w row)
    (a.1 + cellTerm l, (a.2 + cellRes l) % 3)) (0, 0)
  (r.1 * subWeight mode sub, r.2)

/-! ## The Smithy (R101-R111) -/

/-- A Smithy weight register: four INT8 slots. -/
def smithyWord (ws : List Int) : Word :=
  BitVec.ofNat 32 ((List.range 4).foldl (fun a i => a + 256 ^ i * ofSigned 8 ((ws[i]?).getD 0)) 0)
def smithySlot (w : Word) (j : Nat) : Int := toSigned 8 (w.toNat / 256 ^ j)

/-- A Smithy column's sum over its 32 rows and its residue. -/
def smithySum (slot : Nat) (act : Nat → Int) (w : Nat → Word) : Int × Nat :=
  (List.range 32).foldl (fun (a : Int × Nat) row =>
    let x := toSigned 8 (ofSigned 8 (act row))
    let y := smithySlot (w row) slot
    (a.1 + x * y, (a.2 + mod3 x * mod3 y) % 3)) (0, 0)

/-- The addend of a Smithy sum (R107, R108). -/
def smithyAddend (sum : Int) (smul sshift : Nat) : Int :=
  let e := toSigned 5 sshift
  if 0 ≤ e then sum * smul * 2 ^ e.toNat else rneInt (sum * smul) (2 ^ (-e).toNat)

/-- The check of the product before the shift (R115). -/
def smithyChecks (sum : Int) (res smul : Nat) : Bool := mod3 (sum * smul) == res * (smul % 3) % 3

/-! ## The Stook (R87-R91, R116-R118) -/

/-- The value an entry holds. -/
def StookEntry.int (e : StookEntry) : Int := e.value.toInt
/-- Even parity over the other 35 bits (R88). -/
def StookEntry.parity (e : StookEntry) : Bool :=
  (((List.range 32).foldl (fun a i => a != e.value.getLsbD i) false != e.res.getLsbD 0) != e.res.getLsbD 1) != e.sat
/-- The parity check of a read (R95). -/
def StookEntry.parOk (e : StookEntry) : Bool := e.par == e.parity
/-- RES agrees with VALUE mod 3, or is not compared because SAT is set (R116, R117). -/
def StookEntry.resOk (e : StookEntry) : Bool := e.sat || e.res.toNat == mod3 e.int
/-- The same entry with valid parity. -/
def StookEntry.sealed (e : StookEntry) : StookEntry := { e with par := e.parity }

/-- The entry an initial value gives (R89). -/
def stookInit (v : Int) : StookEntry :=
  { value := BitVec.ofInt 32 v, res := BitVec.ofNat 2 (mod3 v), sat := false, par := false : StookEntry }.sealed

/-- One update (R90, R102, R116): the new entry before its parity, and whether it saturated. An exact result outside 32 bits writes the
nearer limit and sets SAT, which holds the value; the residue path goes on. -/
def StookEntry.add (e : StookEntry) (part : Int) (pres : Nat) (addend : Int) (ares : Nat) : StookEntry × Bool :=
  let x := e.int + part + addend
  let res := BitVec.ofNat 2 ((e.res.toNat + pres + ares) % 3)
  if e.sat then ({ e with res := res }, false)
  else if 2147483647 < x then ({ e with value := 0x7FFFFFFF, res := res, sat := true }, true)
  else if x < -2147483648 then ({ e with value := 0x80000000, res := res, sat := true }, true)
  else ({ e with value := BitVec.ofInt 32 x, res := res }, false)

/-- What a checker of the engine found: a residue fault or else a parity fault, the column, and whether an injection caused it. -/
structure CellFault where
  residue : Bool
  column : Nat
deriving DecidableEq, Repr

/-- The Field, the Smithy and the Stook of an engine while a tile runs, with the injected errors still to come (R595) and what has been
counted and found. -/
structure FieldRun where
  fg : WRegs := {}
  bg : WRegs := {}
  stook : Tab StookEntry := []
  parInj : Nat := 0
  resInj : Nat := 0
  faults : List CellFault := []
  sats : Nat := 0
  smupd : Nat := 0
deriving DecidableEq, Repr

/-- Weight registers change roles at a pass boundary (R78). -/
def FieldRun.exchange (r : FieldRun) : FieldRun := { r with fg := r.bg, bg := r.fg }

/-- An update of entry (row, column). An initialising update reads no stored entry (R89). An armed STOOK_PAR or FIELD_RES injection inverts the
check bits formed (R122, R595). -/
def FieldRun.update (r : FieldRun) (row col : Nat) (init : Option Int) (part : Int) (pres : Nat) (addend : Int) (ares : Nat) : FieldRun :=
  let old := match init with
    | some v => stookInit v
    | none => Tab.get {} r.stook (512 * row + col)
  let found := if old.parOk then [] else [⟨false, col⟩]
  let (e, hit) := old.add part pres addend ares
  let ri : Bool := !e.sat && decide (0 < r.resInj)
  let pi : Bool := decide (0 < r.parInj)
  let e := if ri then { e with res := ~~~ e.res } else e
  let e := e.sealed
  let found := found ++ if e.resOk then [] else [⟨true, col⟩]
  { r with
    stook := Tab.set {} r.stook (512 * row + col) (if pi then { e with par := !e.par } else e)
    parInj := r.parInj - 1
    resInj := if ri then r.resInj - 1 else r.resInj
    faults := r.faults ++ found
    sats := if hit then r.sats + 1 else r.sats }

end Sys2Proof.Machine
end

