-- ==== Sys2Proof/Machine/Memory.lean ====
section
/-! DEFINITION. The address map (R40-R45), reads of DRAM and flash, block checks with re-sends and re-reads (R20-R24), and
the Granary's slices (R364-R372). -/

namespace Sys2Proof.Machine

/-! ## Regions (R41) -/

/-- 64 GiB of DRAM. -/
def dramSize : Nat := 0x1000000000
/-- The base of the window apertures and the mapped length of each (R41). -/
def aperBase : Nat := 0x2000000000
def barnSize : Nat := 0x600000
/-- The flash map: 512 MiB. -/
def flashBase : Nat := 0x4000000000
def flashSize : Nat := 0x20000000

/-- A range lies wholly in DRAM. -/
def inDram (a n : Nat) : Bool := decide (a + n ≤ dramSize)
/-- A range lies wholly in the flash map. -/
def inFlash (a n : Nat) : Bool := decide (flashBase ≤ a) && decide (a + n ≤ flashBase + flashSize)
/-- The engine and Barn offset of a range that lies wholly in the mapped part of one aperture (R43, R44). -/
def inAperture (a n : Nat) : Option (Nat × Nat) :=
  if a < aperBase then none
  else
    let e := (a - aperBase) / 0x1000000
    let o := (a - aperBase) % 0x1000000
    if e < 24 ∧ o + n ≤ barnSize ∧ o < barnSize then some (e, o) else none

/-! ## Reads -/

/-- A byte of a boot slot: the shipped image until the slot is erased (R786). -/
def BootSlot.byte (b : BootSlot) (x : Nat) : Byte := if b.factory then (if x = 1 then BitVec.ofNat 8 Config.shippedSvn else Config.factoryImage x) else Tab.get 0xFF b.bytes x

/-- A byte of flash as the flash map reads it (R678). -/
def State.flashByte (s : State) (x : Nat) : Byte :=
  if x < 0x4000000 then s.sec.slotA.byte x
  else if x < 0x4180000 then 0
  else if x < 0x10000000 then Tab.get 0xFF s.sec.user x
  else if x < 0x14000000 then s.sec.slotB.byte (x - 0x10000000)
  else if x < 0x14100000 then 0
  else Tab.get 0xFF s.sec.user x

/-- The program store of the Tally: 8 KiB for each slot (R41, R382). -/
def progBase : Nat := 0x3000080000

/-- The 32 bytes of a transfer descriptor (R385, R386). -/
def Xfer.encode (x : Xfer) : List Byte :=
  let op := match x.op with
    | .read => 0
    | .write => 1
    | .winwrite => 2
    | .expand => 3
    | .fence => 4
  let b2n (b : Bool) (v : Nat) : Nat := if b then v else 0
  leBytes 1 op ++ leBytes 1 (x.cls.toNat + b2n x.phaseEnd 4 + b2n x.masked 8 + x.osel.toNat * 16) ++ leBytes 2 x.rows.toNat ++
    leBytes 2 x.planes.toNat ++ leBytes 3 x.boff.toNat ++ leBytes 6 x.base.toNat ++ leBytes 2 x.bpitch.toNat ++ leBytes 3 x.len.toNat ++
    leBytes 5 x.pitch.toNat ++ leBytes 5 x.ppitch.toNat ++ leBytes 2 x.wepoch.toNat

/-- Read a transfer descriptor; none for a reserved OP. -/
def Xfer.decode (bs : List Byte) : Option Xfer :=
  let op : Option XOp := match fld bs 0 1 with
    | 0 => some .read
    | 1 => some .write
    | 2 => some .winwrite
    | 3 => some .expand
    | 4 => some .fence
    | _ => none
  let f := fld bs 1 1
  op.map fun o =>
    { op := o, cls := BitVec.ofNat 2 f, phaseEnd := bitOf f 2, masked := bitOf f 3, osel := BitVec.ofNat 3 (f / 16)
      rows := BitVec.ofNat 16 (fld bs 2 2), planes := BitVec.ofNat 16 (fld bs 4 2), boff := BitVec.ofNat 24 (fld bs 6 3)
      base := BitVec.ofNat 48 (fld bs 9 6), bpitch := BitVec.ofNat 16 (fld bs 15 2), len := BitVec.ofNat 24 (fld bs 17 3)
      pitch := BitVec.ofNat 40 (fld bs 20 5), ppitch := BitVec.ofNat 40 (fld bs 25 5), wepoch := BitVec.ofNat 16 (fld bs 30 2) }

/-- A byte of the program store. -/
def State.progByte (s : State) (x : Nat) : Byte :=
  match (s.slot (x / 8192)).prog[x % 8192 / 32]? with
  | some d => (d.encode[x % 32]?).getD 0
  | none => 0

/-- Addresses from here on exist in no device: a tile's buffers are read through them (`State.view`). -/
def bufBase : Nat := 2 ^ 48

/-- A byte that a fabric read returns. -/
def State.memByte (s : State) (a : Nat) : Byte :=
  if a < dramSize then s.byte a
  else if inFlash a 1 then s.flashByte (a - flashBase)
  else if progBase ≤ a ∧ a < progBase + 64 * 8192 then s.progByte (a - progBase)
  else if bufBase ≤ a then s.byte a
  else 0

/-- `n` bytes that a fabric read returns. -/
def State.memBytes (s : State) (a n : Nat) : List Byte := (List.range n).map fun i => s.memByte (a + i)

/-! ## Channels, slices and sets -/

/-- XOR of the 6-bit groups of a number (R364, R379); the fuel covers 48-bit addresses. -/
def fold6 : Nat → Nat → Nat
  | 0, _ => 0
  | k + 1, n => (n % 64) ^^^ fold6 k (n / 64)

/-- The DRAM channel of an address (R379). -/
def chanOf (a : Nat) : Nat := fold6 8 (a / 256)
/-- The Granary slice of an address before remapping (R364). -/
def sliceOf (a : Nat) : Nat := fold6 8 (a / 128)
/-- The Granary set of an address (R364). -/
def setOf (a : Nat) : Nat := a / 8192 % 1024

/-- The 256-byte blocks a range touches. -/
def blocksOf (a n : Nat) : List Nat := if n = 0 then [] else (List.range ((a + n - 1) / 256 - a / 256 + 1)).map fun i => a / 256 + i

/-- Read the blocks of a range from DRAM under injected CRC errors (R24, R595): each failing read is made again, at most four
times. The first block all of whose five reads fail is reported by its channel. -/
def State.dramCheck (s : State) (a n : Nat) : Option Nat × State :=
  if !inDram a n then (none, s)
  else (blocksOf a n).foldl (fun (acc : Option Nat × State) b =>
    let s := acc.2
    let c := chanOf (b * 256)
    let h := s.injHits 6 c 5
    if h = 0 then acc
    else
      let s := (s.useInj h).bump 3 c 0 (min h 4)
      (if h = 5 then acc.1.or (some c) else acc.1, s)) (none, s)

/-- The CRC-32C that a block carries across the fabric (R20); an injection inverts its bits (R595). -/
def carriedCrc (bs : List Byte) (inverted : Bool) : Word := if inverted then ~~~ crc32c bs else crc32c bs
/-- The receiver's check of a block. -/
def blockPasses (bs : List Byte) (crc : Word) : Bool := crc32c bs == crc
/-- How many of `h` deliveries with injected errors fail their check. -/
def failedTries (bs : List Byte) (h : Nat) : Nat := ((List.range h).filter fun _ => !blockPasses bs (carriedCrc bs true)).length

/-- Receive blocks at an engine's fabric port under injected CRC errors (R21-R23, R595): each failing block is sent again, at
most four times. Answers whether some block still failed; a block that passes on a re-send is a PORT_RESEND report. -/
def State.portCheck (s : State) (eng n : Nat) : Bool × State :=
  (List.range n).foldl (fun (acc : Bool × State) _ =>
    let s := acc.2
    let h := failedTries [] (s.injHits 5 eng 5)
    if h = 0 then acc
    else
      let s := (s.useInj h).bump 0 eng 27 (min h 4)
      if h = 5 then (true, s)
      else (acc.1, s.raise { source := 0x06, inst := eng, inj := true })) (false, s)

/-! ## The Granary (R364-R372) -/

/-- The ways a class may allocate (R367). -/
def classWays (cls : Nat) : List Nat :=
  if cls = 0 then (List.range 12).map (· + 4) else if cls = 1 then [2, 3] else if cls = 2 then [0, 1] else []

/-- The way of a set that holds a line. -/
def Slice.wayOf (sl : Slice) (set line : Nat) : Option Nat :=
  (List.range 16).find? fun w => Tab.get none sl.tags (set * 16 + w) == some line

/-- Point the tree away from a way just used: node k of level d covers the ways that share its upper bits (R368). -/
def plruTouch (t : BitVec 15) (w : Nat) : BitVec 15 :=
  (List.range 4).foldl (fun t d =>
    let node := 2 ^ d - 1 + w / 2 ^ (4 - d)
    let upper := w / 2 ^ (3 - d) % 2
    if upper = 1 then t &&& ~~~ (BitVec.ofNat 15 (2 ^ node)) else t ||| BitVec.ofNat 15 (2 ^ node)) t

/-- Walk the tree from a node to the way it points at, keeping to the ways allowed (R368): a set bit points to the upper half. -/
def plruWalk (t : BitVec 15) (ok : List Nat) : Nat → Nat → Nat → Nat
  | 0, _, w => w
  | k + 1, node, w =>
    let lo := w * 2
    let hi := w * 2 + 1
    let has (x : Nat) : Bool := ok.any fun y => decide (y / 2 ^ k = x)
    let up : Bool := if !has lo then true else if !has hi then false else t.getLsbD node
    plruWalk t ok k (2 * node + 1 + if up then 1 else 0) (if up then hi else lo)

/-- Put a line into a set, in the way the tree chooses among those of the class; a class without ways allocates nothing. -/
def Slice.alloc (sl : Slice) (set line cls : Nat) : Slice :=
  if (classWays cls).isEmpty then sl
  else
    let t := Tab.get 0 sl.plru set
    let empty := (classWays cls).find? fun w => (Tab.get none sl.tags (set * 16 + w)).isNone
    let w := empty.getD (plruWalk t (classWays cls) 4 0 0)
    let bad := match Tab.get none sl.tags (set * 16 + w) with
      | some l => Tab.set 0 sl.bad l 0
      | none => sl.bad
    { sl with
      bad := bad
      tags := Tab.set none sl.tags (set * 16 + w) (some line)
      plru := Tab.set 0 sl.plru set (plruTouch t w) }

/-- Drop a line from a slice. -/
def Slice.drop (sl : Slice) (set line : Nat) : Slice :=
  match sl.wayOf set line with
  | some w => { sl with tags := Tab.set none sl.tags (set * 16 + w) none, bad := Tab.set 0 sl.bad line 0 }
  | none => sl

/-- The slice that serves for a disabled slice (R372): slice XOR k for the smallest k from 1 whose slice is enabled. -/
def State.remap (s : State) (sl : Nat) : Nat :=
  if (s.slice sl).disabled then
    match (List.range 64).find? (fun k => decide (k ≠ 0) && !(s.slice (sl ^^^ k)).disabled) with
    | some k => sl ^^^ k
    | none => sl
  else sl

/-- The slice that serves an address (R364, R372). -/
def State.sliceFor (s : State) (a : Nat) : Nat := s.remap (sliceOf a)

/-- Use a present line. -/
def Slice.hit (x : Slice) (set w : Nat) : Slice := { x with plru := Tab.set 0 x.plru set (plruTouch (Tab.get 0 x.plru set) w) }

/-- Give trackers to waiting requests while any are free (R369); a request to a line that is being fetched joins its miss. The fuel is the
number of requests. -/
def Slice.trackN : Nat → Slice → Slice
  | 0, x => x
  | f + 1, x =>
    match x.waiting with
    | [] => x
    | (line, cls) :: rest =>
      if x.misses.any fun m => m.1 == line then
        trackN f { x with waiting := rest, misses := x.misses.map fun m => if m.1 == line then (m.1, m.2.1, m.2.2 + 1) else m }
      else if x.misses.length < 64 then trackN f { x with waiting := rest, misses := x.misses ++ [(line, cls, 1)] }
      else x
def Slice.track (x : Slice) : Slice := x.trackN x.waiting.length

/-- Words written into a line, under an armed GRANARY_ECC injection. -/
def State.landLine (s : State) (sl line words : Nat) : State :=
  let h := s.injHits 2 sl words
  if h = 0 then s
  else (s.modSlice sl fun x => { x with bad := Tab.set 0 x.bad line (if s.bell.injBits then 2 else 1) }).useInj h

/-- A read of a present line checks its words (R371): one inverted bit is corrected, two invalidate the line; both are class C. -/
def State.checkLine (s : State) (sl set line : Nat) : State :=
  let b := Tab.get 0 (s.slice sl).bad line
  if b = 0 then s
  else
    let s := s.modSlice sl fun x => { (if b = 1 then x else x.drop set line) with bad := Tab.set 0 x.bad line 0 }
    (s.bump 2 sl 3 1).raise { source := 0x10, inst := sl, detail := BitVec.ofNat 32 line, inj := true }

/-- Fill a line of a slice under a class, all of its words written; a line that is present stays in its way. -/
def State.fillLine (s : State) (sl line cls : Nat) : State :=
  let x := s.slice sl
  let set := setOf (line * 128)
  if (classWays cls).isEmpty then s
  else
    let y := if (x.wayOf set line).isSome then x else x.alloc set line cls
    (s.setSlice sl { y with bad := Tab.set 0 y.bad line 0 }).landLine sl line 16

/-- An agent's read of one line (R365-R369, R371), from access to data: a hit, or a read of DRAM or flash that fills the line, the
outstanding miss of the line joined where there is one. Answers the DRAM channel whose five reads failed (R24). -/
def State.readLine (s : State) (cls line : Nat) : Option Nat × State :=
  let a := line * 128
  if !(inDram a 1 || inFlash a 1) then (none, s)
  else
    let sl := s.sliceFor a
    let set := setOf a
    let s := if ((s.slice sl).wayOf set line).isSome then s.checkLine sl set line else s
    match (s.slice sl).wayOf set line with
    | some w => (none, (s.modSlice sl fun x => x.hit set w).bump 2 sl 0 1)
    | none =>
      let m := (s.slice sl).misses.find? fun m => m.1 == line
      let r := s.dramCheck a 1
      let cls := match m with
        | some m => m.2.1
        | none => cls
      let s := (r.2.modSlice sl fun x => { x with misses := x.misses.filter fun m => m.1 != line }.track).bump 2 sl (if m.isSome then 2 else 1) 1
      (r.1, if r.1.isSome then s else s.fillLine sl line cls)

/-- The 128-byte lines a range touches. -/
def linesOf (a n : Nat) : List Nat := if n = 0 then [] else (List.range ((a + n - 1) / 128 - a / 128 + 1)).map fun i => a / 128 + i

/-- An agent's read of a range through the Granary; the first channel whose reads failed. -/
def State.fabricRead (s : State) (cls a n : Nat) : Option Nat × State :=
  (linesOf a n).foldl (fun acc l => let r := acc.2.readLine cls l; (acc.1.or r.1, r.2)) (none, s)

/-- An agent's write of a range as the Granary sees it (R366): whole lines allocate in their class's ways, parts update a present line. -/
def State.touchLines (s : State) (cls a n : Nat) : State :=
  forEach (linesOf a n) (fun l s =>
    let sl := s.sliceFor (l * 128)
    let set := setOf (l * 128)
    let lo := max a (l * 128)
    let hi := min (a + n) (l * 128 + 128)
    let whole : Bool := decide (hi - lo = 128)
    match (s.slice sl).wayOf set l with
    | some w =>
      let s := (s.modSlice sl fun x => { x.hit set w with bad := if whole then Tab.set 0 x.bad l 0 else x.bad }).bump 2 sl 0 1
      s.landLine sl l ((hi - 1) / 8 - lo / 8 + 1)
    | none => if whole then s.fillLine sl l cls else s) s

/-- An agent's write of bytes to DRAM (R365, R366). -/
def State.fabricWrite (s : State) (cls a : Nat) (bs : List Byte) : State := (s.touchLines cls a bs.length).write a bs

/-- A read by the Reeve, the Steward or the TAP under a class (R365, R367). One whose every re-read fails is reported (R24), and the reader
reads again (log 104). -/
def State.readBy (s : State) (cls a n : Nat) : State :=
  match s.fabricRead cls a n with
  | (some ch, s) => s.raise { source := 0x19, inst := ch, detail := BitVec.ofNat 32 ch, inj := true }
  | (none, s) => s

/-- The class of the Reeve's and the Steward's accesses (R367). -/
def clsControl : Nat := 1

/-! ## The Market's transfer unit (R389)

It holds 64 credits, one for each sector of 64 bytes under way. A command of this model carries its transfers to their end, so that every
credit is free again before the next one (log 105). -/

def marketCredits : Nat := 64

/-- A range cut into batches that the credits cover; the next batch is issued when the credits of the last have returned. -/
def marketBatches (a n : Nat) : List (Nat × Nat) :=
  if n = 0 then []
  else
    let size := 64 * marketCredits
    (List.range ((a + n - 1) / size - a / size + 1)).map fun i =>
      let lo := max a ((a / size + i) * size)
      (lo, min (a + n) ((a / size + i + 1) * size) - lo)

/-- A read by the Market; the first channel whose reads failed. -/
def State.marketRead (s : State) (a n : Nat) : Option Nat × State :=
  (marketBatches a n).foldl (fun acc b => let r := acc.2.fabricRead 2 b.1 b.2; (acc.1.or r.1, r.2)) (none, s)

/-- A write by the Market. -/
def State.marketWrite (s : State) (a : Nat) (bs : List Byte) : State :=
  forEach (marketBatches a bs.length) (fun b s => s.fabricWrite 2 b.1 ((bs.drop (b.1 - a)).take b.2)) s

/-- Invalidate the Granary lines of a range (R373, R433, R435). -/
def State.dropLines (s : State) (a n : Nat) : State :=
  if n = 0 then s
  else { s with slices := (s.slices.map fun p =>
    (p.1, { p.2 with
      tags := p.2.tags.filter fun e => match e.2 with
        | some l => decide (l * 128 + 127 < a) || decide (a + n ≤ l * 128)
        | none => false
      bad := p.2.bad.filter fun e => decide (e.1 * 128 + 127 < a) || decide (a + n ≤ e.1 * 128) })).filter fun p => decide (p.2 ≠ {}) }

/-- The Steward has programmed records of the security store, primary copy and mirror: the lines of both ranges are invalidated (R373, R678). -/
def State.storeProgrammed (s : State) : State := (s.dropLines (flashBase + 0x4000000) 0x100000).dropLines (flashBase + 0x14000000) 0x100000

/-- Invalidate every line of the Granary (R341, R343). -/
def State.dropAllLines (s : State) : State :=
  { s with slices := (s.slices.map fun p => (p.1, { p.2 with tags := [], bad := [] })).filter fun p => decide (p.2 ≠ {}) }

end Sys2Proof.Machine
end

