-- ==== Sys2Proof/Machine/Operands.lean ====
section
/-! DEFINITION. Command entries, descriptors, loop levels, scale tables and tensor elements as they lie in memory (R125-R138,
R193-R209, R217-R220). -/

namespace Sys2Proof.Machine

/-! ## The command entry (R193) -/

/-- The fields of a 64-byte command entry. -/
structure Cmd where
  op : Nat
  arith : Nat
  round : Nat
  init : Nat
  actfn : Nat
  alpha : Nat
  ndesc : Nat
  auto : Bool
  tolerant : Bool
  cont : Bool
  barrier : Bool
  smul : Nat
  sshift : Nat
  desc : Nat
  clo : Nat
  chi : Nat
  loop : Nat
  pentry : Nat
  rcont : Nat
  seed : Nat
  /-- A reserved bit or byte outside IMM is set. -/
  resv : Bool
  /-- The 24 immediate bytes, [63:40]. -/
  imm : List Byte
deriving DecidableEq, Repr

/-- Read a command entry. -/
def cmdOf (bs : List Byte) : Cmd :=
  { op := fld bs 0 1, arith := bitsOf (fld bs 1 1) 3 0, round := bitsOf (fld bs 1 1) 5 4, init := bitsOf (fld bs 1 1) 7 6
    actfn := bitsOf (fld bs 2 1) 2 0, alpha := fld bs 3 1, ndesc := fld bs 4 1
    auto := bitOf (fld bs 5 1) 0, tolerant := bitOf (fld bs 5 1) 1, cont := bitOf (fld bs 5 1) 2, barrier := bitOf (fld bs 5 1) 3
    smul := fld bs 6 1, sshift := bitsOf (fld bs 7 1) 4 0, desc := fld bs 8 6
    clo := fld bs 16 2, chi := fld bs 18 2, loop := fld bs 20 6, pentry := fld bs 26 1, rcont := fld bs 28 2, seed := fld bs 32 8
    resv := decide (bitsOf (fld bs 2 1) 7 3 ≠ 0 ∨ bitsOf (fld bs 5 1) 7 4 ≠ 0 ∨ bitsOf (fld bs 7 1) 7 5 ≠ 0 ∨ fld bs 14 2 ≠ 0 ∨
      fld bs 27 1 ≠ 0 ∨ fld bs 30 2 ≠ 0)
    imm := (bs.drop 40).take 24 }

/-- An immediate of `n` bytes at entry byte `b` (R212). -/
def Cmd.im (c : Cmd) (b : Nat) (n : Nat := 1) : Nat := fld c.imm (b - 40) n

/-! ## Opcodes (R210) -/

def opNop : Nat := 0x00
def opGemm : Nat := 0x01
def opConv : Nat := 0x02
def opDwconv : Nat := 0x03
def opPool : Nat := 0x04
def opBoxpool : Nat := 0x05
def opEltw : Nat := 0x06
def opReduce : Nat := 0x07
def opLut : Nat := 0x08
def opCopy : Nat := 0x09
def opSend : Nat := 0x0A
def opOptim : Nat := 0x0B
def opStats : Nat := 0x0C
def opLoadb : Nat := 0x10
def opSignal : Nat := 0x11
def opWait : Nat := 0x12
def opWopen : Nat := 0x13
def opWclose : Nat := 0x14
def opScrub : Nat := 0x15
def opCodebook : Nat := 0x16
def opEnd : Nat := 0x1F

def knownOp (o : Nat) : Bool := decide (o ≤ 0x0C) || (decide (0x10 ≤ o) && decide (o ≤ 0x16)) || o == 0x1F
/-- Opcodes that run as tiled commands (R249). -/
def tiledOp (o : Nat) : Bool := decide (1 ≤ o) && decide (o ≤ 0x0C)
/-- Opcodes that use the Field (R210). -/
def fieldOp (o : Nat) : Bool := o == opGemm || o == opConv || o == opDwconv
/-- A command whose form uses the Sieve (R195, R210). -/
def Cmd.usesSieve (c : Cmd) : Bool :=
  fieldOp c.op || c.op == opBoxpool || c.op == opEltw || c.op == opReduce || c.op == opStats ||
  (c.op == opPool && bitOf (c.im 47) 0) || (c.op == opCopy && c.im 40 == 0)

/-! ## Descriptors (R200, R206, R207) -/

def roX : Nat := 0x01
def roW : Nat := 0x02
def roY : Nat := 0x03
def roBias : Nat := 0x04
def roX2 : Nat := 0x05
def roWwino : Nat := 0x06
def roOlist : Nat := 0x07
def roOx : Nat := 0x08
def roOw : Nat := 0x09
def roYalt : Nat := 0x0A
def roActtab : Nat := 0x0B
def roSprog : Nat := 0x0C
def roStatrec : Nat := 0x0D
def roParam : Nat := 0x0E
def roGenrec : Nat := 0x0F
def roGrad : Nat := 0x10
def roMom : Nat := 0x11
def roSmom : Nat := 0x12
def roMaster : Nat := 0x13
def roWork : Nat := 0x14
def roBoxes : Nat := 0x15
def roLtab : Nat := 0x16
def roCbook : Nat := 0x17
def roWrec : Nat := 0x18

/-- Roles of object descriptors. -/
def objectRole (r : Nat) : Bool :=
  [roOlist, roActtab, roSprog, roStatrec, roParam, roGenrec, roBoxes, roLtab, roCbook, roWrec].contains r

/-- A descriptor with its addresses and extents resolved. -/
structure Desc where
  role : Nat
  code : Nat
  zkind : Nat
  genrel : Bool
  zifer : Bool
  sblk : Nat
  saxis : Nat
  spt : Bool
  caxis : Nat
  rank : Nat
  trans : Bool
  pslot : Nat
  addr : Nat
  stab : Nat
  p : List Nat
  gidx : Nat
  /-- Reserved bits set. -/
  resv : Bool
  /-- Bytes other than ROLE and ADDR set. -/
  extra : Bool
deriving DecidableEq, Repr

/-- Read a 32-byte descriptor. -/
def descOf (bs : List Byte) : Desc :=
  let ty := fld bs 1 1
  let sc := fld bs 2 1
  let sh := fld bs 3 1
  { role := fld bs 0 1, code := bitsOf ty 3 0, zkind := bitsOf ty 5 4, genrel := bitOf ty 6, zifer := bitOf ty 7
    sblk := bitsOf sc 2 0, saxis := bitsOf sc 4 3, spt := bitOf sc 5, caxis := bitsOf sc 7 6
    rank := bitsOf sh 1 0 + 1, trans := bitOf sh 2, pslot := bitsOf sh 7 4, addr := fld bs 4 6, stab := fld bs 10 6
    p := [fld bs 16 3, fld bs 19 3, fld bs 22 3, fld bs 25 3], gidx := fld bs 28 1
    resv := bitOf sh 3 || decide (fld bs 29 3 ≠ 0)
    extra := decide (fld bs 1 3 ≠ 0 ∨ leNat (bs.drop 10) ≠ 0) }

/-- Extent of stored dimension `d`. -/
def Desc.ext (t : Desc) (d : Nat) : Nat := (t.p[d]?).getD 1

/-- Resolve the bound slots of the stored extents (R202). -/
def Desc.resolve (t : Desc) (slots : Tab Word) : Desc :=
  { t with p := (List.range 4).map fun d =>
      if bitOf t.pslot d then (Tab.get 0 slots (t.ext d % 16)).toNat else t.ext d }

/-! ## Code types (R125) -/

def cS4 : Nat := 0
def cU4 : Nat := 1
def cS2 : Nat := 2
def cU2 : Nat := 3
def cTern : Nat := 4
def cBin : Nat := 5
def cS8 : Nat := 6
def cU8 : Nat := 7
def cS32 : Nat := 8
def cBf16 : Nat := 9
def cFp32 : Nat := 10

/-- Width in bits. -/
def codeBits (c : Nat) : Nat :=
  if c ≤ 1 then 4 else if c ≤ 4 then 2 else if c = 5 then 1 else if c ≤ 7 then 8 else if c = 9 then 16 else 32
/-- Codes with a zero point. -/
def codeUnsigned (c : Nat) : Bool := c == cU4 || c == cU2 || c == cU8
/-- Codes with a scale table (R136). -/
def codeScaled (c : Nat) : Bool := decide (c ≤ 7)
/-- Least and greatest code (R149). -/
def codeMin (c : Nat) : Int := if codeUnsigned c then 0 else if c = cTern ∨ c = cBin then -1 else -(2 ^ (codeBits c - 1) : Nat)
def codeMax (c : Nat) : Int :=
  if codeUnsigned c then (2 ^ codeBits c : Nat) - 1 else if c = cTern ∨ c = cBin then 1 else (2 ^ (codeBits c - 1) : Nat) - 1

/-- The value a stored code stands for (R71, R72, R125). -/
def decodeCode (c raw : Nat) : Int :=
  if c = cTern then (if raw = 1 then 1 else if raw = 3 then -1 else 0)
  else if c = cBin then (if raw = 1 then 1 else -1)
  else if codeUnsigned c then (raw : Int)
  else toSigned (codeBits c) raw

/-- The stored code of a value. -/
def encodeCode (c : Nat) (q : Int) : Nat :=
  if c = cBin then (if 0 ≤ q then 1 else 0) else ofSigned (codeBits c) q

/-- Bytes of a dense tensor (R201). -/
def Desc.len (t : Desc) : Nat := ceilDiv (t.ext 0 * t.ext 1 * t.ext 2 * t.ext 3 * codeBits t.code) 8

/-- Linear index of an element (R201). -/
def Desc.idx (t : Desc) (i0 i1 i2 i3 : Nat) : Nat := i0 + t.ext 0 * (i1 + t.ext 1 * (i2 + t.ext 2 * i3))

/-- Element `i` of packed codes, read through a byte reader (R126). -/
def packedAt (rd : Nat → Byte) (bits i : Nat) : Nat :=
  if bits < 8 then bitsOf (rd (i * bits / 8)).toNat (i * bits % 8 + bits - 1) (i * bits % 8)
  else leNat ((List.range (bits / 8)).map fun k => rd (i * (bits / 8) + k))

/-! ## Scale tables (R129-R138) -/

/-- v(c) (R129). -/
def scaleVal (c : Nat) : Nat :=
  let e := c / 32
  let m := c % 32
  if e = 0 then m else (32 + m) * 2 ^ (e - 1)

/-- Blocks a tensor's extents and granularity imply (R132, R138). -/
def Desc.nb (t : Desc) : Nat := if t.spt then 1 else ceilDiv (t.ext t.saxis) (2 ^ t.sblk)
/-- Zero points implied (R133, R138). -/
def Desc.nz (t : Desc) : Nat :=
  if !codeUnsigned t.code then 0
  else if t.zkind = 1 then 1 else if t.zkind = 2 then t.nb else if t.zkind = 3 then t.ext t.caxis else 0

/-- Header fields of a scale table (R136). -/
def State.stG (s : State) (a : Nat) : Word := BitVec.ofNat 32 (leNat (s.memBytes a 4))
def State.stNb (s : State) (a : Nat) : Nat := leNat (s.memBytes (a + 4) 4)
def State.stNz (s : State) (a : Nat) : Nat := leNat (s.memBytes (a + 8) 4)
def State.stCode (s : State) (a : Nat) : Nat := (s.memByte (a + 12)).toNat
def State.stHead (s : State) (a : Nat) : Nat := (s.memByte (a + 13)).toNat
def State.stFilled (s : State) (a : Nat) : Nat := (s.memByte (a + 14)).toNat

/-- Offsets of the zero point and history arrays (R137). -/
def stZoff (nb : Nat) : Nat := 64 + alignUp nb 64
def stHoff (nb nz bits : Nat) : Nat := stZoff nb + alignUp (ceilDiv (nz * bits) 8) 64
/-- Length of a scale table. -/
def stLen (nb nz bits : Nat) : Nat := stHoff nb nz bits + 64 * nb

/-- Scale code of block `b`. -/
def State.scCode (s : State) (stab b : Nat) : Nat := (s.memByte (stab + 64 + b)).toNat
/-- Zero point `i` of a table with `nb` blocks. -/
def State.zpAt (s : State) (stab nb bits i : Nat) : Nat := packedAt (fun k => s.memByte (stab + stZoff nb + k)) bits i

/-- Block and zero-point index of an element at stored coordinates. -/
def Desc.blockOf (t : Desc) (ix : Nat → Nat) : Nat := if t.spt then 0 else ix t.saxis / 2 ^ t.sblk
def Desc.zpOf (t : Desc) (ix : Nat → Nat) : Nat :=
  if t.zkind = 2 then t.blockOf ix else if t.zkind = 3 then ix t.caxis else 0

/-- The zero point of an element: 0 for signed codes (R62). -/
def State.zeroPt (s : State) (t : Desc) (ix : Nat → Nat) : Int :=
  if codeUnsigned t.code then (s.zpAt t.stab t.nb (codeBits t.code) (t.zpOf ix) : Int) else 0

/-! ## Loop tables (R217-R220) -/

/-- A level: dimension, slot bound, descending, bound, step and tile. -/
structure Level where
  dim : Nat
  bsrc : Bool
  desc : Bool
  bound : Nat
  step : Nat
  tile : Nat
  resv : Bool := false
deriving DecidableEq, Repr

def dM : Nat := 0
def dN : Nat := 1
def dK : Nat := 2
def dB : Nat := 3
def dG : Nat := 4
def dC : Nat := 5
def dH : Nat := 6
def dW : Nat := 7
def dKh : Nat := 8
def dKw : Nat := 9

/-- Read a level entry. -/
def levelOf (bs : List Byte) : Level :=
  let l := fld bs 0 1
  { dim := bitsOf l 3 0, bsrc := bitOf l 4, desc := bitOf l 5, bound := fld bs 4 4, step := fld bs 8 4, tile := fld bs 12 4
    resv := decide (bitsOf l 7 6 ≠ 0 ∨ fld bs 1 3 ≠ 0) }

/-- A loop table: outer levels follow `nin` inner ones. -/
structure Loop where
  nin : Nat
  curve : Bool
  levels : List Level
deriving DecidableEq, Repr

/-- Iterations of a level. -/
def Level.n (l : Level) : Nat := ceilDiv l.bound l.step

/-- The outer levels, innermost first. -/
def Loop.outer (t : Loop) : List Level := t.levels.drop t.nin
/-- The inner levels, innermost first. -/
def Loop.inner (t : Loop) : List Level := t.levels.take t.nin

/-- The tile count (R227). -/
def Loop.tcount (t : Loop) : Nat := t.outer.foldl (fun a l => a * l.n) 1

/-! ## The Hilbert curve (R252-R254) -/

/-- One rotation of the curve. -/
def hilRot (sz x y rx ry : Nat) : Nat × Nat :=
  if ry = 0 then
    let x' := if rx = 1 then sz - 1 - x else x
    let y' := if rx = 1 then sz - 1 - y else y
    (y', x')
  else (x, y)

/-- The point of curve position `d`; the fuel is the base-2 logarithm of the grid side. -/
def hilGo : Nat → Nat → Nat → Nat → Nat → Nat × Nat
  | 0, _, _, x, y => (x, y)
  | k + 1, sz, d, x, y =>
    let rx := d / 2 % 2
    let ry := (d ^^^ rx) % 2
    let r := hilRot sz x y rx ry
    hilGo k (sz * 2) (d / 4) (r.1 + sz * rx) (r.2 + sz * ry)

/-- `hil_xy` over a grid of side 2^k. -/
def hilXy (k d : Nat) : Nat × Nat := hilGo k 1 d 0 0

/-- The valid point of a rank: positions outside the counts are skipped (R253). The fuel is the number of positions left. -/
def hilRank (k nx ny : Nat) : Nat → Nat → Nat → Nat × Nat
  | 0, _, _ => (0, 0)
  | f + 1, d, rank =>
    let p := hilXy k d
    if p.1 < nx ∧ p.2 < ny then (if rank = 0 then p else hilRank k nx ny f (d + 1) (rank - 1))
    else hilRank k nx ny f (d + 1) rank

/-- Mixed-radix digits of a tile index over level counts, innermost first (R228). -/
def radix : List Nat → Nat → List Nat
  | [], _ => []
  | n :: ns, t => t % n :: radix ns (t / n)

/-- The index each outer level uses for a tile (R228, R229, R252-R254), innermost first, DESC applied. -/
def Loop.indices (t : Loop) (tile : Nat) : List Nat :=
  let ls := t.outer
  let raw :=
    if t.curve ∧ 2 ≤ ls.length then
      let rest := ls.take (ls.length - 2)
      let q := rest.foldl (fun a l => a * l.n) 1
      let nx := ((ls[ls.length - 2]?).map Level.n).getD 1
      let ny := ((ls[ls.length - 1]?).map Level.n).getD 1
      let k := ceilLog2 (max nx ny)
      let p := hilRank k nx ny (4 ^ k) 0 (tile / q)
      radix (rest.map Level.n) (tile % q) ++ [p.1, p.2]
    else radix (ls.map Level.n) tile
  (ls.zip raw).map fun p => if p.1.desc then p.1.n - 1 - p.2 else p.2

end Sys2Proof.Machine
end

