-- ==== Sys2Proof/Machine/Plan.lean ====
section
/-! DEFINITION. What a tiled command does: its descriptors with slots and generations resolved, its loop table given or
derived (R217-R234), its image geometry (R282-R299), and the rectangle of each tile (R225-R229). -/

namespace Sys2Proof.Machine

/-- A command resolved against memory and its job record. `delta` is the offset from an OPTIM state tensor to its output. -/
structure Plan where
  cmd : Cmd
  ds : List Desc := []
  delta : Int := 0
  loop : Loop := { nin := 0, curve := false, levels := [] }
  /-- Bytes of dense image in a tile, for SEND and for COPY between dense and Zifer (R439, R551). -/
  lin : Option Nat := none
  /-- E of each dimension (R225), by its code of R220. -/
  ext : List Nat := []
deriving DecidableEq, Repr

/-- The descriptor of a role. -/
def Plan.d? (p : Plan) (role : Nat) : Option Desc := p.ds.find? fun t => t.role == role
/-- The same where it is known to be present. -/
def Plan.d (p : Plan) (role : Nat) : Desc := (p.d? role).getD (descOf [])
def Plan.has (p : Plan) (role : Nat) : Bool := (p.d? role).isSome
/-- Index of a role's descriptor in the array; 0xFF where there is none. -/
def Plan.didx (p : Plan) (role : Nat) : Nat := ((p.ds.findIdx? fun t => t.role == role)).getD 0xFF
def Plan.x (p : Plan) : Desc := p.d roX
def Plan.w (p : Plan) : Desc := p.d roW
def Plan.y (p : Plan) : Desc := p.d roY

/-- E of a dimension. -/
def Plan.E (p : Plan) (d : Nat) : Nat := (p.ext[d]?).getD 1

/-- A Winograd command (R307). -/
def Plan.wino (p : Plan) : Bool := p.cmd.op == opConv && p.has roWwino

/-! ## COPY forms and reductions -/

def subConvert : Nat := 0
def subTranspose : Nat := 1
def subCompress : Nat := 2
def subExpand : Nat := 3
/-- A COPY of a given SUBOP. -/
def Cmd.copyIs (c : Cmd) (sub : Nat) : Bool := c.op == opCopy && c.im 40 == sub
/-- A command cut into runs of the dense image instead of rectangles. -/
def Cmd.linear (c : Cmd) : Bool := c.op == opSend || c.copyIs subCompress || c.copyIs subExpand
/-- AXES of a REDUCE, as a test on stored dimensions. -/
def Cmd.axis (c : Cmd) (d : Nat) : Bool := c.op == opReduce && bitOf (c.im 41) d
/-- BCAST of an ELTW. -/
def Cmd.bcast (c : Cmd) (d : Nat) : Bool := c.op == opEltw && bitOf (c.im 41) d

/-- The loop dimension that names stored dimension D0-D3 of a command without rows and columns of its own (R215). -/
def ewDim (d : Nat) : Nat := if d = 0 then dW else if d = 1 then dH else if d = 2 then dC else dB

/-! ## Image geometry (R282-R293, R304, R305) -/

/-- Window, stride, dilation, padding and factors of an image command, with the extents they give. -/
structure Geo where
  kh : Nat
  kw : Nat
  sh : Nat
  sw : Nat
  dh : Nat
  dw : Nat
  pt : Nat
  pb : Nat
  pl : Nat
  pr : Nat
  mode : Nat
  asym : Bool
  const : Nat
  /-- Factors of space-to-depth and depth-to-space, 1 where none is set. -/
  s2d : Nat
  d2s : Nat
  /-- Input extents after space-to-depth. -/
  ih : Nat
  iw : Nat
  ic : Nat
  /-- Group count (R283). -/
  g : Nat
deriving DecidableEq, Repr

/-- The geometry of CONV, DWCONV and POOL. -/
def geoOf (c : Cmd) (x w : Desc) : Geo :=
  let pool := c.op == opPool
  let md := if pool then c.im 46 else c.im 48
  let asym := bitOf md 3
  let f := if c.op == opConv then max 1 (c.im 50 % 16) else 1
  let ptop := if pool then c.im 44 else c.im 46
  let pleft := if pool then c.im 45 else c.im 47
  { kh := c.im 40, kw := c.im 41, sh := c.im 42, sw := c.im 43
    dh := if pool then 1 else c.im 44, dw := if pool then 1 else c.im 45
    pt := ptop, pb := if asym then c.im 51 else ptop, pl := pleft, pr := if asym then c.im 52 else pleft
    mode := md % 8, asym := asym, const := if pool then 0 else c.im 49
    s2d := f, d2s := if c.op == opConv then max 1 (c.im 50 / 16) else 1
    ih := x.ext 1 / f, iw := x.ext 0 / f, ic := x.ext 2 * f * f
    g := if c.op == opConv then max 1 (x.ext 2 * f * f / max 1 (w.ext 2)) else 1 }

/-- R285 along one axis. -/
def outExt (i lo hi dl k s : Nat) : Int := ((i : Int) + lo + hi - (dl * (k - 1) : Nat) - 1) / (s : Int) + 1

def Geo.ohI (g : Geo) : Int := outExt g.ih g.pt g.pb g.dh g.kh g.sh
def Geo.owI (g : Geo) : Int := outExt g.iw g.pl g.pr g.dw g.kw g.sw
def Geo.oh (g : Geo) : Nat := g.ohI.toNat
def Geo.ow (g : Geo) : Nat := g.owI.toNat

/-- R290: the input index an output position and tap address along one axis; none where the position lies outside the input
under ZERO or CONST. -/
def mapIdx (mode ext : Nat) (i : Int) : Option Nat :=
  if 0 ≤ i ∧ i < ext then some i.toNat
  else if mode = 2 then some (if i < 0 then -i else 2 * (ext : Int) - 2 - i).toNat
  else if mode = 3 then some (if i < 0 then 0 else ext - 1)
  else if mode = 4 then some (if i < 0 then i + ext else i - ext).toNat
  else none

def Geo.rowOf (g : Geo) (o k : Nat) : Option Nat := mapIdx g.mode g.ih ((o * g.sh + k * g.dh : Nat) - (g.pt : Int))
def Geo.colOf (g : Geo) (o k : Nat) : Option Nat := mapIdx g.mode g.iw ((o * g.sw + k * g.dw : Nat) - (g.pl : Int))

/-- R291: the reach of an axis on the high side. -/
def highReach (o s lo dl k i : Nat) : Int := max 0 (((o : Int) - 1) * s - lo + (dl * (k - 1) : Nat) - ((i : Int) - 1))

def Plan.geo (p : Plan) : Geo := geoOf p.cmd p.x p.w

/-! ## BOXPOOL (R320-R326) -/

/-- The box count (R321). -/
def boxCount (c : Cmd) (slots : Tab Word) : Nat := if c.im 48 = 1 then (Tab.get 0 slots (c.im 44 % 16)).toNat else c.im 44 4

/-! ## Tile rectangles -/

/-- Levels that name a dimension, innermost first, with their places in the table. -/
def Loop.naming (t : Loop) (d : Nat) : List (Nat × Level) :=
  ((List.range t.levels.length).zip t.levels).filter fun l => l.2.dim == d

/-- Every two levels that name one dimension, the inner one first (R222). -/
def Loop.pairsNaming (t : Loop) : List (Level × Level) :=
  let all := (List.range t.levels.length).zip t.levels
  (all.map fun a => (all.filter fun b => decide (a.1 < b.1) && b.2.dim == a.2.dim).map fun b => (a.2, b.2)).flatten

/-- Outer levels that name a dimension, innermost first. -/
def Loop.outerNaming (t : Loop) (d : Nat) : List (Nat × Level) := (t.naming d).filter fun l => decide (t.nin ≤ l.1)

/-- The extent of a dimension within a tile, before clipping: TILE of the innermost outer level, or the whole extent (R225,
R230, R337). -/
def Plan.tileExt (p : Plan) (d : Nat) : Nat :=
  match p.loop.outerNaming d with
  | [] => p.E d
  | l :: _ => l.2.tile

/-- STEP of the innermost outer level naming a dimension, for the blocks a tile can touch. -/
def Plan.stepOf (p : Plan) (d : Nat) : Nat :=
  match p.loop.outerNaming d with
  | [] => 0
  | l :: _ => l.2.step

/-- The read extent of R231: whole TILEs of the innermost level naming the dimension. -/
def Plan.readExt (p : Plan) (d : Nat) : Nat :=
  match p.loop.naming d with
  | [] => p.E d
  | l :: _ => alignUp (p.E d) l.2.tile

/-- Origin and clipped extent of a dimension, given the index of each outer level (R226). -/
def Plan.span (p : Plan) (idx : List Nat) (d : Nat) : Nat × Nat :=
  let r := (p.loop.outerNaming d).reverse.foldl (fun (acc : Nat × Nat) l =>
    let o := acc.1 + ((idx[l.1 - p.loop.nin]?).getD 0) * l.2.step
    (o, min acc.2 (o + l.2.tile))) (0, p.E d)
  (r.1, r.2 - r.1)

/-- Origin and extent of every dimension of a tile. -/
def Plan.box (p : Plan) (tile : Nat) : List (Nat × Nat) :=
  let idx := p.loop.indices tile
  (List.range 10).map fun d => p.span idx d

/-- Origin and extent of one dimension in a tile's rectangle. -/
def boxAt (b : List (Nat × Nat)) (d : Nat) : Nat × Nat := (b[d]?).getD (0, 1)

/-- The tile count (R227, R439, R551). -/
def Plan.tcount (p : Plan) : Nat :=
  match p.lin with
  | some n => max 1 (ceilDiv p.x.len n)
  | none => p.loop.tcount

/-- Every origin and extent that a dimension takes over the tiles of the command. -/
def Plan.spans (p : Plan) (d : Nat) : List (Nat × Nat) :=
  (p.loop.outerNaming d).reverse.foldl (fun acc l =>
    (acc.map fun a => (List.range l.2.n).map fun i => (a.1 + i * l.2.step, min a.2 (a.1 + i * l.2.step + l.2.tile))).flatten)
    [(0, p.E d)] |>.map fun a => (a.1, a.2 - a.1)

/-- The positions of a reduced dimension that the inner levels reach (R226), all of them where no inner level names it. -/
def Plan.walked (p : Plan) (d k : Nat) : Bool :=
  let ls := (p.loop.naming d).filter fun l => decide (l.1 < p.loop.nin)
  let r := ls.reverse.foldl (fun (acc : Bool × Nat) l =>
    let off := acc.2 % l.2.step
    (acc.1 && decide (acc.2 / l.2.step < l.2.n), off)) (true, k)
  r.1

/-! ## Deriving a table (R233, R299, R326) -/

/-- A derived level: whole extent, balanced tiles. -/
def autoLevel (d e tile : Nat) : Level := { dim := d, bsrc := false, desc := false, bound := e, step := max 1 tile, tile := max 1 tile }

/-- Tiles of at most `m`, balanced. -/
def balanced (e m : Nat) : Nat := ceilDiv e (max 1 (ceilDiv e m))

/-- The derived table of GEMM (R233). -/
def autoGemm (m n : Nat) : Loop :=
  let tn := balanced n 512
  let tm := balanced m 512
  { nin := 0, curve := decide (1 < ceilDiv n tn) && decide (1 < ceilDiv m tm), levels := [autoLevel dN n tn, autoLevel dM m tm] }

/-- The derived table of the commands on W, H, C and B; `skip` names the AXES of a REDUCE. -/
def autoEw (e : Nat → Nat) (skip : Nat → Bool) : Loop :=
  let tw := balanced (e 0) 512
  let th := balanced (e 1) 512
  let inner := (if skip 0 then [] else [autoLevel dW (e 0) tw]) ++ (if skip 1 then [] else [autoLevel dH (e 1) th])
  let more := (if skip 2 || decide (e 2 ≤ 1) then [] else [autoLevel dC (e 2) 1]) ++
    (if skip 3 || decide (e 3 ≤ 1) then [] else [autoLevel dB (e 3) 1])
  { nin := 0
    curve := more.isEmpty && !skip 0 && !skip 1 && decide (1 < ceilDiv (e 0) (max 1 tw)) && decide (1 < ceilDiv (e 1) (max 1 th))
    levels := inner ++ more }

/-- The derived table of CONV, DWCONV and POOL (R299). -/
def autoImage (g : Geo) (wino : Bool) (chDim ch batch : Nat) : Loop :=
  let even (n : Nat) : Nat := if wino then alignUp n 2 else n
  let tw := even (balanced g.ow 64)
  let t0 := min 64 (512 / max 1 tw)
  let th0 := if wino then (if t0 / 2 * 2 = 0 then 2 else t0 / 2 * 2) else t0
  let th := even (balanced g.oh (max 1 th0))
  let nw := ceilDiv g.ow (max 1 tw)
  let nh := ceilDiv g.oh (max 1 th)
  let more := (if 1 < g.g then [autoLevel dG g.g 1] else []) ++ (if 1 < batch then [autoLevel dB batch 1] else [])
  { nin := 0, curve := more.isEmpty && decide (1 < nw) && decide (1 < nh)
    levels := [autoLevel chDim ch (balanced ch 512), autoLevel dW g.ow tw, autoLevel dH g.oh th] ++ more }

/-- The derived table of BOXPOOL for `mt` boxes a tile (R326): C innermost, then M (log 12). -/
def autoBox (mt c nbox : Nat) : Loop :=
  { nin := 0, curve := false, levels := [autoLevel dC c (balanced c 512), autoLevel dM nbox (max 1 mt)] }

/-- Read a loop table with its slot bounds resolved (R217-R219). -/
def loopOf (hdr : List Byte) (levels : List (List Byte)) (slots : Tab Word) : Loop :=
  { nin := fld hdr 1 1, curve := bitOf (fld hdr 2 1) 0
    levels := levels.map fun b =>
      let l := levelOf b
      if l.bsrc then { l with bound := (Tab.get 0 slots (l.bound % 16)).toNat } else l }

/-- E of every dimension (R225): the BOUND of the outermost level naming it, else what its input carries. -/
def extents (t : Loop) (carried : Nat → Nat) : List Nat :=
  (List.range 10).map fun d =>
    match (t.naming d).getLast? with
    | some l => l.2.bound
    | none => carried d

/-- The extent of each dimension that the operands carry: that of the stored input, and the output extents of R285 and R321
for dimensions that only an output has. -/
def carriedExt (c : Cmd) (x w : Desc) (slots : Tab Word) (d : Nat) : Nat :=
  let g := geoOf c x w
  if c.op == opGemm then
    (if d = dM then (if x.trans then x.ext 0 else x.ext 1)
     else if d = dN then (if w.trans then w.ext 0 else w.ext 1)
     else if d = dK then (if x.trans then x.ext 1 else x.ext 0) else 1)
  else if c.op == opConv then
    (if d = dN then w.ext 3 / g.g else if d = dC then w.ext 2 else if d = dKh then w.ext 1 else if d = dKw then w.ext 0
     else if d = dH then g.oh else if d = dW then g.ow else if d = dB then x.ext 3 else if d = dG then g.g else 1)
  else if c.op == opDwconv then
    (if d = dC then x.ext 2 else if d = dKh then w.ext 1 else if d = dKw then w.ext 0
     else if d = dH then g.oh else if d = dW then g.ow else if d = dB then x.ext 3 else 1)
  else if c.op == opPool then
    (if d = dC then x.ext 2 else if d = dH then g.oh else if d = dW then g.ow else if d = dB then x.ext 3 else 1)
  else if c.op == opBoxpool then
    (if d = dC then x.ext 2 else if d = dM then boxCount c slots else 1)
  else if d = dW then x.ext 0 else if d = dH then x.ext 1 else if d = dC then x.ext 2 else if d = dB then x.ext 3 else 1

/-- The input whose D0-D3 the dimensions W, H, C and B name (R215): GRAD for OPTIM. -/
def firstInput (c : Cmd) (ds : List Desc) : Desc :=
  ((ds.find? fun t => t.role == (if c.op == opOptim then roGrad else roX))).getD (descOf [])

/-- The extents AUTO tiles: those of the output, whose stored extents R232 bounds below, since R234 lets the inputs be stored
beyond them; of GRAD for OPTIM (log 10). -/
def autoExt (c : Cmd) (x y : Desc) (d : Nat) : Nat :=
  if c.op == opOptim then x.ext d
  else if c.copyIs subTranspose then y.ext (if d = 0 then 1 else if d = 1 then 0 else d)
  else y.ext d

/-- The table a command runs under: read from LOOP, or derived under AUTO. -/
def State.loopFor (s : State) (c : Cmd) (x w y : Desc) (wino : Bool) (slots : Tab Word) (mt : Nat) : Loop :=
  if !c.auto then
    let hdr := s.memBytes c.loop 16
    loopOf hdr ((List.range (min 6 (fld hdr 0 1))).map fun i => s.memBytes (c.loop + 16 + 16 * i) 16) slots
  else if c.op == opGemm then autoGemm (y.ext 1) (y.ext 0)
  else if c.op == opConv then
    let g := geoOf c x w
    autoImage g wino dN (w.ext 3 / g.g) (x.ext 3)
  else if c.op == opDwconv || c.op == opPool then autoImage (geoOf c x w) false dC (x.ext 2) (x.ext 3)
  else if c.op == opBoxpool then autoBox mt (x.ext 2) (boxCount c slots)
  else autoEw (autoExt c x y) c.axis

/-! ## Resolving a command -/

/-- The fields of a generation record (R176): GEN, and the bases of the current and the shadow slot. -/
def State.genOf (s : State) (a : Nat) : Word := BitVec.ofNat 32 (leNat (s.memBytes a 4))
def State.genSlots (s : State) (a : Nat) : Nat × Nat :=
  let sa := leNat (s.memBytes (a + 8) 6)
  let sb := leNat (s.memBytes (a + 16) 6)
  if (s.genOf a).toNat % 2 = 0 then (sa, sb) else (sb, sa)

/-- The descriptor array of a command, as it lies in memory. -/
def State.rawDescs (s : State) (c : Cmd) : List Desc :=
  (List.range (min 12 c.ndesc)).map fun i => descOf (s.memBytes (c.desc + 32 * i) 32)

/-- Resolve slots and generation slots (R179, R202), exchange Y for YALT on a re-run (R169), and give the loop table. -/
def State.planWith (s : State) (c : Cmd) (slots : Tab Word) (gens : Nat × Nat) (rerun : Bool) (mt : Nat) : Plan :=
  let ds := (s.rawDescs c).map fun t =>
    let t := t.resolve slots
    let t := if t.genrel then { t with addr := (gens.1 + t.addr) % 2 ^ 48 } else t
    if rerun then (if t.role = roYalt then { t with role := roY } else if t.role = roY then { t with role := roYalt } else t)
    else t
  let p : Plan := { cmd := c, ds := ds }
  let x := firstInput c ds
  let param := (p.d roParam).addr
  let delta : Int := if p.has roGenrec then (gens.2 : Int) - gens.1
    else if c.op == opOptim then toSigned 48 (leNat (s.memBytes (param + 40) 6)) else 0
  let loop := if c.linear then { nin := 0, curve := false, levels := [] } else s.loopFor c x p.w p.y p.wino slots mt
  { p with
    delta := delta, loop := loop
    lin := if c.op == opSend then some 65536 else if c.linear then some 262144 else none
    ext := extents loop (carriedExt c x p.w slots) }

end Sys2Proof.Machine
end

