-- ==== Sys2Proof/Machine/Ranges.lean ====
section
/-! DEFINITION. What a command reads and writes, as byte ranges, and how much of the Barn its tiles take (R201, R243, R298,
R326, R337, R404). -/

namespace Sys2Proof.Machine

/-- A byte range with the index of the descriptor it comes from; 0xFF where it has none. -/
structure Rng where
  a : Nat
  n : Nat
  i : Nat
deriving DecidableEq, Repr

/-- Two ranges share a byte. -/
def Rng.meets (r t : Rng) : Bool := decide (0 < r.n) && decide (0 < t.n) && decide (r.a < t.a + t.n) && decide (t.a < r.a + r.n)

/-! ## Scale-table programs (R162) -/

/-- An entry of a scale-table program. -/
structure SProg where
  version : Nat
  count : Nat
  hresv : Bool
  table : Nat
  src : Nat
  win : Nat
  margin : Nat
  thresh : Nat
  react : Nat
  hold : Bool
  resv : Bool
deriving DecidableEq, Repr

/-- Entry `n` of the program at an address. -/
def State.sprog (s : State) (a n : Nat) : SProg :=
  let h := s.memBytes a 16
  let e := s.memBytes (a + 16 + 16 * n) 16
  { version := fld h 1 1, count := fld h 0 1, hresv := decide (fld h 2 14 ≠ 0)
    table := fld e 0 6, src := fld e 6 1, win := fld e 7 1, margin := fld e 8 1, thresh := fld e 9 1, react := fld e 10 1
    hold := bitOf (fld e 11 1) 0, resv := decide (fld e 11 1 / 2 ≠ 0 ∨ fld e 12 4 ≠ 0) }

/-- The program entry a command names; none where it names no program or the program does not hold the entry. -/
def State.progOf (s : State) (p : Plan) : Option SProg :=
  match p.d? roSprog with
  | none => none
  | some t =>
    let e := s.sprog t.addr p.cmd.pentry
    if e.version = 1 ∧ 1 ≤ e.count ∧ e.count ≤ 16 ∧ p.cmd.pentry < e.count then some e else none

/-- The scale tables a command adapts (R164): the TABLE of its program entry, and the alternate table of a re-run. -/
def State.adaptsOf (s : State) (p : Plan) : List Nat :=
  match s.progOf p with
  | none => []
  | some e => e.table :: (if e.react = 2 then
      (([roY, roYalt].filterMap p.d?).filter fun t => codeBits t.code == 8).map fun t => t.stab else [])

/-- The scale tables a command reads through a STAB and does not adapt (R164). -/
def State.readsOf (s : State) (p : Plan) : List Nat :=
  let ad := s.adaptsOf p
  (p.ds.filterMap fun t => if !objectRole t.role && t.stab ≠ 0 && !ad.contains t.stab then some t.stab else none).eraseDups

/-! ## Zifer index tables (R401, R402, R441) -/

/-- Header fields of an index table. -/
structure Zhdr where
  version : Nat
  kind : Nat
  stream : Nat
  cgen : Nat
  nblk : Nat
  ulen : Nat
  resv : Bool
deriving DecidableEq, Repr

def State.zhdr (s : State) (a : Nat) : Zhdr :=
  let h := s.memBytes a 64
  { version := fld h 0 1, kind := fld h 1 1, stream := fld h 2 1 % 16, cgen := fld h 4 2, nblk := fld h 8 4, ulen := fld h 12 4
    resv := decide (fld h 2 1 / 16 ≠ 0 ∨ fld h 3 1 ≠ 0 ∨ fld h 6 2 ≠ 0 ∨ fld h 16 48 ≠ 0) }

/-- Entry `i` of an index table. -/
def State.zoff (s : State) (a i : Nat) : Nat := leNat (s.memBytes (a + 64 + 4 * i) 4)
/-- DBASE (R402). -/
def zbase (a nblk : Nat) : Nat := a + alignUp (64 + 4 * (nblk + 1)) 4096
/-- The block pitch of COMPRESS in lines (R441). -/
def blockPitch (kind vlen cbits b : Nat) : Nat :=
  if kind = 1 then ceilDiv (20 + 32768 / max 1 (vlen * b) * cbits / 8) 64 else 65

/-- The slot of a stream that holds a generation in state CURRENT or PENDING (R421). -/
def State.cbHeld (s : State) (st gen : Nat) : Option CbSlot :=
  ([s.cbSlot st 0, s.cbSlot st 1]).find? fun c => (c.st == .current || c.st == .pending) && c.gen.toNat == gen

/-- The slot of a stream that holds a generation in any state. -/
def State.cbAny (s : State) (st gen : Nat) : Option CbSlot :=
  ([s.cbSlot st 0, s.cbSlot st 1]).find? fun c => c.st != .empty && c.gen.toNat == gen

/-! ## Ranges -/

/-- The ranges of a tensor that is read (R201, R404). -/
def State.tensorRanges (s : State) (t : Desc) (i : Nat) : List Rng :=
  if t.zifer then
    let h := s.zhdr t.addr
    [⟨t.addr, 64 + 4 * (h.nblk + 1), i⟩, ⟨zbase t.addr h.nblk, 64 * s.zoff t.addr h.nblk, i⟩]
  else [⟨t.addr, t.len, i⟩]

/-- The range of a tensor's scale table. -/
def Desc.tableRange (t : Desc) (i : Nat) : List Rng :=
  if t.stab = 0 then [] else [⟨t.stab, stLen t.nb t.nz (codeBits t.code), i⟩]

/-- Roles a command writes. -/
def Cmd.writesRole (c : Cmd) (r : Nat) : Bool :=
  if c.op = opOptim then r == roMom || r == roSmom || r == roMaster || r == roWork
  else if c.op = opStats then false
  else r == roY || r == roYalt

/-- Roles a command reads as tensors. -/
def Cmd.readsRole (c : Cmd) (r : Nat) : Bool :=
  !objectRole r && (if c.op = opOptim then r != roWork else r != roY && r != roYalt)

/-- Bytes of an object a command reads, by its format; `k` is the reduction of R208. -/
def State.objectLen (s : State) (p : Plan) (t : Desc) : Nat :=
  if t.role = roActtab then 576
  else if t.role = roSprog then 16 + 16 * (s.memByte t.addr).toNat
  else if t.role = roOlist then 64 * ceilDiv (p.E dK * (if p.cmd.op = opConv then p.E dC * p.E dKh * p.E dKw else 1)) 128
  else if t.role = roBoxes then 32 * (if p.cmd.op = opBoxpool then p.E dM else 0)
  else if t.role = roLtab then 256
  else if t.role = roParam then 64
  else if t.role = roCbook then
    (if (s.memByte (t.addr + 1)).toNat = 2 then 128
     else 64 + 2 ^ (s.memByte (t.addr + 3)).toNat * (s.memByte (t.addr + 2)).toNat * codeBits ((s.memByte (t.addr + 4)).toNat % 16) / 8)
  else 0

/-- The ranges of a tensor that is written: dense at its address and offset, or a compressed image at its greatest length. -/
def Plan.outRanges (p : Plan) (t : Desc) (i : Nat) : List Rng :=
  if t.zifer then
    let nblk := ceilDiv t.len 4096
    let bp := blockPitch (if p.cmd.im 41 = 0 then 1 else 2) (p.cmd.im 42) (p.cmd.im 43) (codeBits t.code)
    [⟨t.addr, 64 + 4 * (nblk + 1), i⟩, ⟨zbase t.addr nblk, nblk * bp * 64, i⟩]
  else [⟨(if t.role = roWork && !p.has roGenrec then t.addr else (((t.addr : Int) + p.delta) % (2 ^ 48 : Nat)).toNat), t.len, i⟩]

/-- Descriptors with their indices. -/
def Plan.idxed (p : Plan) : List (Nat × Desc) := (List.range p.ds.length).zip p.ds

/-- Every range a command reads (R243), the tables it adapts left out. -/
def State.inputs (s : State) (p : Plan) (cmdAddr : Nat) : List Rng :=
  let ad := s.adaptsOf p
  ⟨cmdAddr, 64, 0xFF⟩ :: ⟨p.cmd.desc, 32 * p.cmd.ndesc, 0xFF⟩ ::
  (if p.cmd.auto || !tiledOp p.cmd.op then [] else [⟨p.cmd.loop, 16 + 16 * p.loop.levels.length, 0xFF⟩]) ++
  (p.idxed.map fun (i, t) =>
    if objectRole t.role then [⟨t.addr, s.objectLen p t, i⟩]
    else if p.cmd.readsRole t.role then
      s.tensorRanges t i ++ (if ad.contains t.stab || (p.cmd.op == opOptim && p.cmd.writesRole t.role) then [] else t.tableRange i)
    else []).flatten ++
  (if p.cmd.op == opLoadb then [⟨p.cmd.im 42 6, 4 * p.cmd.im 41, 0xFF⟩] else [])

/-- Every range a command writes, but for the tables updated at commit. -/
def Plan.outputs (p : Plan) : List Rng :=
  (p.idxed.map fun (i, t) =>
    if t.role = roStatrec then [⟨t.addr, 32, i⟩]
    else if t.role = roWrec then [⟨t.addr, 16, i⟩]
    else if p.cmd.writesRole t.role then p.outRanges t i
    else []).flatten

/-- The tables a command updates at its commit. -/
def State.tableOutputs (s : State) (p : Plan) : List Rng :=
  ((s.adaptsOf p).map fun a =>
    let bits := codeBits (s.stCode a)
    ⟨a, stLen (s.stNb a) (s.stNz a) bits, p.didx roSprog⟩) ++
  (if p.cmd.op == opOptim then (p.idxed.map fun (i, t) => if p.cmd.writesRole t.role then t.tableRange i else []).flatten else [])

/-- R243: the first output that overlaps an input or another output. -/
def State.aliasOf (s : State) (p : Plan) (cmdAddr : Nat) : Option Nat :=
  let ins := s.inputs p cmdAddr
  let outs := p.outputs
  let tabs := s.tableOutputs p
  let rec pairs : List Rng → Option Nat
    | [] => none
    | r :: l => if l.any fun t => r.meets t then some r.i else pairs l
  match outs.find? fun r => ins.any fun t => r.meets t with
  | some r => some r.i
  | none => pairs (outs ++ tabs)

/-! ## The footprint of a tile (R298, R326, R337) -/

/-- Extents of the reduction of a Field command (R230, R301). -/
def Plan.kDepth (p : Plan) : Nat :=
  if p.cmd.op == opGemm then p.E dK
  else if p.cmd.op == opConv then p.w.ext 2 * p.geo.kh * p.geo.kw
  else p.geo.kh * p.geo.kw

/-- Pass depth D, sub-cycles s and weight bytes per pass of a mode (R65). -/
def passDepth (m : Nat) : Nat := if m = 0 ∨ m = 5 ∨ m = 6 then 128 else if m = 3 ∨ m = 4 then 512 else 256
def subCycles (m : Nat) : Nat := if m = 5 then 2 else if m = 6 ∨ m = 7 then 4 else 1
def passBytes (m : Nat) : Nat := if m = 3 ∨ m = 6 then 65536 else if m = 7 then 131072 else 32768

/-- Channels of a DWCONV pass (R303). -/
def Plan.cd (p : Plan) : Nat := max 1 (passDepth p.cmd.arith / max 1 (p.geo.kh * p.geo.kw))

/-- Passes of a tile in the direct form (R65, R303). -/
def Plan.passes (p : Plan) : Nat :=
  if p.cmd.op == opDwconv then ceilDiv (p.tileExt dC) p.cd else ceilDiv p.kDepth (passDepth p.cmd.arith)

/-- Rows (positions) of a tile before clipping, and its columns. -/
def Plan.mt (p : Plan) : Nat :=
  if p.cmd.op == opGemm then p.tileExt dM
  else if p.cmd.op == opBoxpool then p.tileExt dM * p.cmd.im 40 * p.cmd.im 41
  else p.tileExt dB * p.tileExt dH * p.tileExt dW
def Plan.nt (p : Plan) : Nat :=
  if p.cmd.op == opGemm || p.cmd.op == opConv then p.tileExt dN else p.tileExt dC

/-- Distinct input rows or columns that the unmasked positions of one span address (R296). -/
def distinctAt (f : Nat → Nat → Option Nat) (o n k : Nat) : Nat :=
  (((List.range n).map fun i => (List.range k).filterMap fun t => f (o + i) t).flatten.eraseDups).length

/-- LB (R298); none for a 1 × 1 convolution (R302). -/
def Plan.lineBuffers (p : Plan) : Nat :=
  let g := p.geo
  if p.cmd.op == opConv && g.kh == 1 && g.kw == 1 then 0
  else
    let ct := if p.cmd.op == opConv then p.w.ext 2 else p.tileExt dC
    let lbr := (p.spans dH).foldl (fun m sp => max m (distinctAt g.rowOf sp.1 sp.2 g.kh)) 0
    let lbc := (p.spans dW).foldl (fun m sp => max m (distinctAt g.colOf sp.1 sp.2 g.kw)) 0
    ct * lbr * ceilDiv (lbc * codeBits p.x.code) 512 * 64

/-- Tile extents along the four stored dimensions of a role, and the STEP of each (0 where the dimension is whole). -/
def Plan.tileDims (p : Plan) (t : Desc) : List (Nat × Nat) :=
  let c := p.cmd
  let of (d : Nat) : Nat × Nat := (p.tileExt d, p.stepOf d)
  let all (d : Nat) : Nat × Nat := (t.ext d, 0)
  let kt : Nat × Nat := (p.E dK, 0)
  let r := t.role
  if c.op == opGemm then
    (if r = roX then (if t.trans then [of dM, kt] else [kt, of dM])
     else if r = roW then (if t.trans then [of dN, kt] else [kt, of dN])
     else if r = roOx then [all 0, of dM] else if r = roOw then [all 0, of dN]
     else if r = roBias then [of dN] else [of dN, of dM])
  else if c.op == opConv then
    (if r = roX then [all 0, all 1, (p.w.ext 2, 0), of dB]
     else if r = roW then [all 0, all 1, all 2, of dN]
     else if r = roWwino then [all 0, all 1, of dN]
     else if r = roOx then [all 0, all 1] else if r = roOw then [all 0, of dN]
     else if r = roBias then [of dN] else [of dW, of dH, of dN, of dB])
  else if c.op == opDwconv then
    (if r = roX then [all 0, all 1, of dC, of dB] else if r = roW then [all 0, all 1, of dC]
     else if r = roBias then [of dC] else [of dW, of dH, of dC, of dB])
  else if c.op == opPool then
    (if r = roX then [all 0, all 1, of dC, of dB] else [of dW, of dH, of dC, of dB])
  else if c.op == opBoxpool then
    (if r = roX then [all 0, all 1, of dC, all 3] else [all 0, all 1, of dC, of dM])
  else if c.copyIs subTranspose && r = roY then [of dH, of dW, of dC, of dB]
  else (List.range 4).map fun d =>
    if (c.axis d && r = roY) || (c.bcast d && r = roX2) then (1, 0) else of (ewDim d)

/-- Indices of an axis's blocks of `2^k` that a tile of `n` indices at multiples of `step` can touch. -/
def touched (n step k total : Nat) : Nat :=
  if step % 2 ^ k = 0 then min total (ceilDiv n (2 ^ k)) else min total (ceilDiv (n - 1) (2 ^ k) + 1)

/-- Tiles of a command read the scale table of a tensor: of every scaled input, and of Y. Copies of the dense image read none. -/
def Plan.scaled (p : Plan) (t : Desc) : Bool := p.lin.isNone && codeScaled t.code && (p.cmd.readsRole t.role || t.role == roY)

/-- Scale and zero-point bytes of one tensor in a tile, each array a part of its own. -/
def Plan.scaleBytes (p : Plan) (t : Desc) : Nat :=
  if !p.scaled t then 0
  else
    let td := p.tileDims t
    let at_ (d : Nat) : Nat × Nat := (td[d]?).getD (1, 0)
    let nb := if t.spt then 1 else touched (at_ t.saxis).1 (at_ t.saxis).2 t.sblk t.nb
    let nz := if !codeUnsigned t.code then 0 else if t.zkind = 1 then 1 else if t.zkind = 2 then nb
      else min (at_ t.caxis).1 (t.ext t.caxis)
    alignUp nb 64 + alignUp (ceilDiv (nz * codeBits t.code) 8) 64

/-- Bytes of a tensor's tile at its width, both extents rounded up to 128 under TRANS. -/
def Plan.tileBytes (p : Plan) (t : Desc) : Nat :=
  let n := (p.tileDims t).foldl (fun a e => a * (if t.trans then alignUp e.1 128 else e.1)) 1
  alignUp (ceilDiv (n * codeBits t.code) 8) 64

/-- The footprint F (R337). -/
def Plan.footprint (p : Plan) : Nat :=
  let c := p.cmd
  let field := fieldOp c.op
  let scales := p.ds.foldl (fun a t => a + if objectRole t.role then 0 else p.scaleBytes t) 0
  let lin := match p.lin with
    | some n => if c.op == opSend then alignUp n 64 else 2 * alignUp n 64
    | none => 0
  let body :=
    if p.lin.isSome then lin
    else if c.op == opGemm then p.tileBytes p.x + p.tileBytes p.w
    else if c.op == opConv || c.op == opDwconv then
      p.lineBuffers + alignUp (ceilDiv ((if c.op == opConv then p.tileExt dN * p.kDepth else p.tileExt dC * p.kDepth) * codeBits p.w.code) 8) 64 +
        (if p.wino then 16 * ceilDiv (p.w.ext 2) 128 * 40960 else 0)
    else if c.op == opPool then p.lineBuffers
    else if c.op == opBoxpool then
      p.tileExt dM * p.tileExt dC * 2 * c.im 40 * c.im 42 * ceilDiv (2 * c.im 41 * c.im 42 * codeBits p.x.code) 512 * 64
    else if c.op == opOptim then
      [roGrad, roMom, roSmom, roMaster, roWork].foldl (fun a r => a + if p.has r then p.tileBytes (p.d r) else 0) 0
    else p.tileBytes p.x + (if p.has roX2 then p.tileBytes (p.d roX2) else 0)
  let out :=
    if p.lin.isSome || c.op == opOptim || c.op == opStats || c.op == opSend then 0
    else if field then alignUp (ceilDiv (p.mt * p.nt * codeBits p.y.code) 8) 64
    else p.tileBytes p.y
  body + out + scales +
    (if c.init = 1 then alignUp (p.nt * 4) 64 else 0) +
    (if p.has roOlist then alignUp (32 * p.passes * (p.mt + p.nt)) 64 else 0) +
    (if c.actfn = 4 then 576 else 0) + 65536

/-- The total length of open windows on an engine, and the greatest on any engine (R338). -/
def State.windowsOn (s : State) (n : Nat) : Nat :=
  (List.range 8).foldl (fun a w => a + if (s.window n w).st == .opn then (s.window n w).len.toNat else 0) 0
def State.wmax (s : State) : Nat := (List.range 24).foldl (fun a n => max a (s.windowsOn n)) 0

/-- Boxes in a tile of a derived BOXPOOL table (R326): the most that fit the Stook and the Barn, at least one. -/
def State.boxesPerTile (s : State) (c : Cmd) (slots : Tab Word) : Nat :=
  let top := max 1 (512 / max 1 (c.im 40 * c.im 41))
  (((List.range top).map fun i => top - i).find? fun mt =>
    decide ((s.planWith c slots (0, 0) false mt).footprint ≤ 6291456 - s.wmax)).getD 1

/-- The plan of the command at CIDX of a job, under what its loader check recorded. -/
def State.planOf (s : State) (e : Nat) : Plan :=
  let j := s.job e
  s.planWith (cmdOf (s.cmdBytes e)) j.bslots (j.gens.1.toNat, j.gens.2.toNat) j.rerunPhase j.mt

end Sys2Proof.Machine
end

