-- ==== Sys2Proof/Machine/Mill.lean ====
section
/-! DEFINITION. Zifer blocks and codebooks: expansion, its checks, and the encoder of COMPRESS (R405-R419, R433, R434, R441,
R442). -/

namespace Sys2Proof.Machine

/-! ## Exponent tables (R417, R419) -/

/-- A used entry: code length, canonical code, and the exponent it stands for; none for the escape. -/
structure ExpCode where
  len : Nat
  code : Nat
  exp : Option Nat
deriving DecidableEq, Repr

/-- Insert an entry by length, later entries after equal ones. -/
def insLen (x : Nat × Option Nat) : List (Nat × Option Nat) → List (Nat × Option Nat)
  | [] => [x]
  | y :: l => if x.1 < y.1 then x :: y :: l else y :: insLen x l

/-- Assign codes in order: each is the previous plus one, shifted left by the increase in length. -/
def assignCodes : Nat → Nat → List (Nat × Option Nat) → List ExpCode
  | _, _, [] => []
  | prev, plen, (len, e) :: l =>
    let c := if plen = 0 then 0 else (prev + 1) * 2 ^ (len - plen)
    ⟨len, c, e⟩ :: assignCodes c len l

/-- The canonical codes of the exponent table at an address. -/
def State.expCodes (s : State) (a : Nat) : List ExpCode :=
  let es := (List.range 32).map fun t => leNat (s.memBytes (a + 64 + 2 * t) 2)
  let used := es.filter fun v => decide (0 < bitsOf v 11 8)
  assignCodes 0 0 (used.foldl (fun l v => insLen (bitsOf v 11 8, if bitOf v 15 then none else some (v % 256)) l) [])

/-- Bits of a byte list, each byte from bit 7 down (R412). -/
def msbBits (bs : List Byte) : List Bool := (bs.map fun b => (List.range 8).map fun i => b.getLsbD (7 - i)).flatten

/-- The number a bit list spells, first bit most significant. -/
def ofBits (l : List Bool) : Nat := l.foldl (fun a b => 2 * a + if b then 1 else 0) 0

/-- Read one code: the entry and the rest of the stream. -/
def readCode (t : List ExpCode) : Nat → Nat → Nat → List Bool → Option (ExpCode × List Bool)
  | 0, _, _, _ => none
  | _, _, _, [] => none
  | f + 1, n, v, b :: l =>
    let v := 2 * v + if b then 1 else 0
    match t.find? fun x => x.len == n + 1 && x.code == v with
    | some x => some (x, l)
    | none => readCode t f (n + 1) v l

/-- Decode a count of exponents; none where the stream ends first. -/
def readExps (t : List ExpCode) : Nat → List Bool → Option (List Nat)
  | 0, _ => some []
  | n + 1, l =>
    match readCode t 12 0 0 l with
    | none => none
    | some (x, l) =>
      match x.exp with
      | some e => (readExps t n l).map fun r => e :: r
      | none => if l.length < 8 then none else (readExps t n (l.drop 8)).map fun r => ofBits (l.take 8) :: r

/-! ## Blocks (R405-R414) -/

/-- Address of block `i`, and the lines it occupies by the index table. -/
def State.blockAt (s : State) (a i : Nat) : Nat := zbase a (s.zhdr a).nblk + 64 * s.zoff a i
def State.blockLines (s : State) (a i : Nat) : Nat := s.zoff a (i + 1) - s.zoff a i

/-- PLEN of a block, and whether its CRC matches (R406). -/
def State.blockPlen (s : State) (b : Nat) : Nat := leNat (s.memBytes (b + 6) 2)
def State.blockCrcOk (s : State) (b : Nat) : Bool :=
  let n := s.blockPlen b
  (crc32c (s.memBytes b (16 + n))).toNat == leNat (s.memBytes (b + 16 + n) 4)

/-- Code `j` of a VQ payload (R408). -/
def vqCode (rd : Nat → Byte) (cbits j : Nat) : Nat :=
  let bit := j * cbits
  (leNat [rd (bit / 8), rd (bit / 8 + 1)]) / 2 ^ (bit % 8) % 2 ^ cbits

/-- Checks of R434, after the CRC has matched. -/
def State.blockMismatch (s : State) (a i : Nat) (cb : CbSlot) : Bool :=
  let h := s.zhdr a
  let b := s.blockAt a i
  let m := s.memBytes b 16
  let plen := fld m 6 2
  let elen := fld m 8 2
  let raw := bitOf (fld m 1 1) 0
  let v := 32768 / max 1 (cb.vlen * codeBits cb.ecode)
  decide (fld m 0 1 ≠ h.kind) || decide (fld m 2 2 ≠ h.cgen) || decide (fld m 4 2 ≠ i % 65536) ||
  decide (s.blockLines a i < ceilDiv (20 + plen) 64) ||
  (if h.kind = 1 then decide (plen ≠ v * cb.cbits / 8)
   else decide (plen ≠ elen + 2048) ||
     (if raw then decide (elen ≠ 2048)
      else (readExps (s.expCodes cb.caddr.toNat) 2048 (msbBits (s.memBytes (b + 16) elen))).isNone))

/-- Byte `k` of an expanded VQ block: the codebook entry of its vector (R410, R416). -/
def State.vqByte (s : State) (b : Nat) (cb : CbSlot) (k : Nat) : Byte :=
  let ent := max 1 (cb.vlen * codeBits cb.ecode / 8)
  let code := vqCode (fun j => s.memByte (b + 16 + j)) cb.cbits (k / ent)
  s.memByte (cb.caddr.toNat + 64 + code * ent + k % ent)

/-- The 4,096 bytes an EXP block expands to (R411-R414). -/
def State.expBlock (s : State) (b : Nat) (cb : CbSlot) : List Byte :=
  let elen := leNat (s.memBytes (b + 8) 2)
  let st := s.memBytes (b + 16) elen
  let es := if (s.memByte (b + 1)).getLsbD 0 then st.map fun x => x.toNat
    else (readExps (s.expCodes cb.caddr.toNat) 2048 (msbBits st)).getD []
  ((List.range 2048).map fun k =>
    let sm := (s.memByte (b + 16 + elen + k)).toNat
    leBytes 2 (sm / 128 * 32768 + ((es[k]?).getD 0) * 128 + sm % 128)).flatten

/-- Byte `x` of the dense image of a Zifer tensor (R398). -/
def State.imgByte (s : State) (t : Desc) (x : Nat) : Byte :=
  let h := s.zhdr t.addr
  let cb := (s.cbAny h.stream h.cgen).getD {}
  let b := s.blockAt t.addr (x / 4096)
  if h.kind = 1 then s.vqByte b cb (x % 4096) else ((s.expBlock b cb)[x % 4096]?).getD 0

/-- Byte `x` of the dense image of a tensor. -/
def State.tensorByte (s : State) (t : Desc) (x : Nat) : Byte := if t.zifer then s.imgByte t x else s.memByte (t.addr + x)

/-- The stored code of element `i` of a tensor (R126). -/
def State.rawAt (s : State) (t : Desc) (i : Nat) : Nat := packedAt (s.tensorByte t) (codeBits t.code) i

/-- Blocks that a run of the dense image touches. -/
def blocksOfRun (x n : Nat) : List Nat := if n = 0 then [] else (List.range ((x + n - 1) / 4096 - x / 4096 + 1)).map fun i => x / 4096 + i

/-- Bytes of a codebook's entries (R416, R417). -/
def State.cbLen (s : State) (a : Nat) : Nat :=
  if (s.memByte (a + 1)).toNat = 2 then 64
  else 2 ^ (s.memByte (a + 3)).toNat * (s.memByte (a + 2)).toNat * codeBits ((s.memByte (a + 4)).toNat % 16) / 8

/-- A codebook's entries match its ECRC (R423 step 4, R431). -/
def State.cbCrcOk (s : State) (a ecrc : Nat) : Bool := (crc32c (s.memBytes (a + 64) (s.cbLen a))).toNat == ecrc

/-- A block can be expanded: its codebook and its CRC match and R434 finds nothing. -/
def State.blockGood (s : State) (a i : Nat) : Bool :=
  let h := s.zhdr a
  match s.cbAny h.stream h.cgen with
  | none => false
  | some cb => s.cbCrcOk cb.caddr.toNat cb.ecrc.toNat && s.blockCrcOk (s.blockAt a i) && !s.blockMismatch a i cb

/-! ## COMPRESS (R441, R442) -/

/-- Squared distance between a vector of the image and a codebook entry, element by element. -/
def State.vqDist (s : State) (rd : Nat → Byte) (cb : CbSlot) (vec ent : Nat) : Nat :=
  let b := codeBits cb.ecode
  (List.range cb.vlen).foldl (fun a i =>
    let x := decodeCode cb.ecode (packedAt rd b (vec * cb.vlen + i))
    let y := decodeCode cb.ecode (packedAt (fun k => s.memByte (cb.caddr.toNat + 64 + k)) b (ent * cb.vlen + i))
    a + (x - y).natAbs ^ 2) 0

/-- The code of a vector: least distance, lowest index among equals. -/
def State.vqChoose (s : State) (rd : Nat → Byte) (cb : CbSlot) (vec : Nat) : Nat :=
  ((List.range (2 ^ cb.cbits)).foldl (fun (best : Nat × Nat) e =>
    let d := s.vqDist rd cb vec e
    if e = 0 ∨ d < best.2 then (e, d) else best) (0, 0)).1

/-- The bits of a code, most significant first. -/
def codeBitsMsb (n v : Nat) : List Bool := (List.range n).map fun i => v.testBit (n - 1 - i)

/-- Pack bits into bytes, first bit in bit 7, the last byte filled with zeros. -/
def packBits : Nat → List Bool → List Byte
  | 0, _ => []
  | f + 1, l => if l.isEmpty then [] else BitVec.ofNat 8 (ofBits ((l.take 8) ++ List.replicate (8 - min 8 l.length) false)) :: packBits f (l.drop 8)

/-- The exponent stream of a block, through the entry that holds each exponent or the escape. -/
def expStream (t : List ExpCode) (es : List Nat) : List Byte :=
  let bits := (es.map fun e =>
    match t.find? fun x => x.exp == some e with
    | some x => codeBitsMsb x.len x.code
    | none => match t.find? fun x => x.exp.isNone with
      | some x => codeBitsMsb x.len x.code ++ codeBitsMsb 8 e
      | none => []).flatten
  packBits (bits.length / 8 + 1) bits

/-- Block `i` as COMPRESS writes it, with its CRC; `rd` reads the dense image, zero past its end. -/
def State.encodeBlock (s : State) (rd : Nat → Byte) (cb : CbSlot) (kind cgen i : Nat) : List Byte :=
  let img (k : Nat) : Byte := rd (4096 * i + k)
  let vq := (List.range (32768 / max 1 (cb.vlen * codeBits cb.ecode))).map fun j => s.vqChoose img cb j
  let pv := leBytes (vq.length * cb.cbits / 8) (((List.range vq.length).zip vq).foldl (fun a c => a + c.2 * 2 ^ (cb.cbits * c.1)) 0)
  let vals := (List.range 2048).map fun k => leNat [img (2 * k), img (2 * k + 1)]
  let es := vals.map fun v => bitsOf v 14 7
  let stream := expStream (s.expCodes cb.caddr.toNat) es
  let rawexp := decide (2048 ≤ stream.length)
  let st := if rawexp then es.map fun e => BitVec.ofNat 8 e else stream
  let pe := st ++ vals.map fun v => BitVec.ofNat 8 (v / 32768 * 128 + v % 128)
  let payload := if kind = 1 then pv else pe
  let body := leBytes 1 kind ++ leBytes 1 (if kind = 2 ∧ rawexp then 1 else 0) ++ leBytes 2 cgen ++ leBytes 2 (i % 65536) ++
    leBytes 2 payload.length ++ leBytes 2 (if kind = 2 then st.length else 0) ++ List.replicate 6 0 ++ payload
  body ++ leBytes 4 (crc32c body).toNat

/-- The index table header of COMPRESS. -/
def zheader (kind stream cgen nblk ulen : Nat) : List Byte :=
  leBytes 1 1 ++ leBytes 1 kind ++ leBytes 1 stream ++ leBytes 1 0 ++ leBytes 2 cgen ++ leBytes 2 0 ++ leBytes 4 nblk ++
    leBytes 4 ulen ++ List.replicate 48 0

end Sys2Proof.Machine
end

