-- ==== Sys2Proof/Machine/Field.lean ====
section
/-! DEFINITION. What a Field tile feeds its engine: operands, passes, vectors, weights, outliers, transforms (R60-R111, R295-R313). -/

namespace Sys2Proof.Machine

/-! ## Outliers (R103-R106) -/

/-- Channels that the outlier record of a 128-channel block lists (R208). -/
def State.outliers (s : State) (p : Plan) (b : Nat) : List Nat :=
  match p.d? roOlist with
  | none => []
  | some t => let r := s.memBytes (t.addr + 64 * b) 64; ((r.drop 8).take (min 32 (fld r 0 1))).map fun v => v.toNat

/-! ## Operands -/

/-- Raw operand of an element: code less zero point (R61, R62). -/
def State.opAt (s : State) (t : Desc) (i0 i1 i2 i3 : Nat) : Int :=
  let ix (d : Nat) : Nat := if d = 0 then i0 else if d = 1 then i1 else if d = 2 then i2 else i3
  decodeCode t.code (s.rawAt t (t.idx i0 i1 i2 i3)) - s.zeroPt t ix

/-- The reduction order of a convolution (R301): dimensions that inner levels name, innermost first, then c, kw, kh. -/
def Plan.redDims (p : Plan) : List Nat :=
  let inner := (p.loop.inner.map fun l => l.dim).eraseDups
  inner ++ ([dC, dKw, dKh].filter fun d => !inner.contains d)

/-- The channel, row and column tap of reduction index `k`. -/
def Plan.tap (p : Plan) (k : Nat) : Nat × Nat × Nat :=
  let size (d : Nat) : Nat := if d = dC then p.w.ext 2 else if d = dKh then p.geo.kh else p.geo.kw
  let digits := radix (p.redDims.map size) k
  let at_ (d : Nat) : Nat := (((p.redDims.zip digits).find? fun x => x.1 == d).map fun x => x.2).getD 0
  (at_ dC, at_ dKh, at_ dKw)

/-- The value of X' at channel, row and column of an image (R304): code less zero point. -/
def State.pixel (s : State) (p : Plan) (c h w b : Nat) : Int :=
  let f := p.geo.s2d
  s.opAt p.x (w * f + c % (f * f) % f) (h * f + c % (f * f) / f) (c / (f * f)) b

/-- Row and column a position and a tap address after R290; none where the pad is synthesised. -/
def Plan.at (p : Plan) (oh ow kh kw : Nat) : Option (Nat × Nat) :=
  match p.geo.rowOf oh kh, p.geo.colOf ow kw with
  | some r, some c => some (r, c)
  | _, _ => none

/-- The padded operand: 0 under ZERO, PCONST less the zero point under CONST (R290, R292). -/
def State.padOp (s : State) (p : Plan) (c b : Nat) : Int :=
  if p.geo.mode = 1 then
    let ix (d : Nat) : Nat := if d = 2 then c / (p.geo.s2d * p.geo.s2d) else if d = 3 then b else 0
    (if codeUnsigned p.x.code then (p.geo.const : Int) else toSigned 8 p.geo.const) - s.zeroPt p.x ix
  else 0

/-- The input indices along one axis that the unmasked output positions of a tile address through some tap, before R290 maps them, and
after. -/
def Geo.rowAt (g : Geo) (o k : Nat) : Int := (o * g.sh + k * g.dh : Nat) - (g.pt : Int)
def Geo.colAt (g : Geo) (o k : Nat) : Int := (o * g.sw + k * g.dw : Nat) - (g.pl : Int)
def Plan.rowsAddressed (p : Plan) (box : List (Nat × Nat)) : List Int :=
  ((List.range (boxAt box dH).2).map fun i => (List.range p.geo.kh).map fun k => p.geo.rowAt ((boxAt box dH).1 + i) k).flatten
def Plan.colsAddressed (p : Plan) (box : List (Nat × Nat)) : List Int :=
  ((List.range (boxAt box dW).2).map fun i => (List.range p.geo.kw).map fun k => p.geo.colAt ((boxAt box dW).1 + i) k).flatten
/-- Rows and columns of the input that the tile fetches (R296). -/
def Plan.rowsFetched (p : Plan) (box : List (Nat × Nat)) : List Nat :=
  ((p.rowsAddressed box).filterMap (mapIdx p.geo.mode p.geo.ih)).eraseDups.filter fun r => decide (r < p.geo.ih)
def Plan.colsFetched (p : Plan) (box : List (Nat × Nat)) : List Nat :=
  ((p.colsAddressed box).filterMap (mapIdx p.geo.mode p.geo.iw)).eraseDups.filter fun r => decide (r < p.geo.iw)

/-- x̃ − za at an image position and tap. A position that only masked output positions address is not fetched and enters as operand 0
(R297). -/
def State.gather (s : State) (p : Plan) (box : List (Nat × Nat)) (c b oh ow kh kw : Nat) : Int :=
  match p.at oh ow kh kw with
  | some (r, q) => if (p.rowsFetched box).contains r && (p.colsFetched box).contains q then s.pixel p c r q b else 0
  | none =>
    if (p.rowsAddressed box).contains (p.geo.rowAt oh kh) && (p.colsAddressed box).contains (p.geo.colAt ow kw) then s.padOp p c b else 0

/-! ## Tile coordinates -/

/-- Rows of a Field tile as streamed: clipped for GEMM (R98), all positions for images (R301). -/
def Plan.rows (p : Plan) (box : List (Nat × Nat)) : Nat := if p.cmd.op == opGemm then (boxAt box dM).2 else p.mt

/-- A tile of zero extent, which is claimed and ends without work (R227). -/
def Plan.emptyTile (p : Plan) (tile : Nat) : Bool :=
  p.lin.isNone && (List.range 10).any fun d => decide ((boxAt (p.box tile) d).2 = 0)

/-- Image position of row `m`: image, row and column, from the tile origin. -/
def Plan.position (p : Plan) (box : List (Nat × Nat)) (m : Nat) : Nat × Nat × Nat :=
  let tw := max 1 (p.tileExt dW)
  let th := max 1 (p.tileExt dH)
  ((boxAt box dB).1 + m / (tw * th), (boxAt box dH).1 + m / tw % th, (boxAt box dW).1 + m % tw)

/-- The row lies within the output (R295). -/
def Plan.rowLive (p : Plan) (box : List (Nat × Nat)) (m : Nat) : Bool :=
  if p.cmd.op == opGemm then decide (m < (boxAt box dM).2)
  else
    let q := p.position box m
    let inside (d v : Nat) : Bool := decide (v < (boxAt box d).1 + (boxAt box d).2)
    inside dB q.1 && inside dH q.2.1 && inside dW q.2.2

/-- The output channel of a column, counted over all groups. -/
def Plan.channel (p : Plan) (box : List (Nat × Nat)) (n : Nat) : Nat :=
  if p.cmd.op == opDwconv then (boxAt box dC).1 + n
  else if p.cmd.op == opConv then (boxAt box dG).1 * (p.w.ext 3 / p.geo.g) + (boxAt box dN).1 + n
  else (boxAt box dN).1 + n

/-- Columns of a tile before and after clipping. -/
def Plan.colsLive (p : Plan) (box : List (Nat × Nat)) : Nat :=
  (boxAt box (if p.cmd.op == opDwconv then dC else dN)).2

/-- The activation operand of row `m` at reduction index `k`. -/
def State.actOp (s : State) (p : Plan) (box : List (Nat × Nat)) (m k : Nat) : Int :=
  if p.cmd.op == opGemm then
    if !p.walked dK k then 0
    else
      let r := (boxAt box dM).1 + m
      if p.x.trans then s.opAt p.x r k 0 0 else s.opAt p.x k r 0 0
  else
    let q := p.position box m
    let t := p.tap k
    s.gather p box ((boxAt box dG).1 * p.w.ext 2 + t.1) q.1 q.2.1 q.2.2 t.2.1 t.2.2

/-- The weight operand of column `n` at reduction index `k`. -/
def State.wgtOp (s : State) (p : Plan) (box : List (Nat × Nat)) (n k : Nat) : Int :=
  let ch := p.channel box n
  if p.cmd.op == opGemm then (if p.w.trans then s.opAt p.w ch k 0 0 else s.opAt p.w k ch 0 0)
  else
    let t := p.tap k
    s.opAt p.w t.2.2 t.2.1 t.1 ch

/-- Index of a row in OX: the row of X for GEMM, the output position for CONV (log 13). -/
def Plan.oxRow (p : Plan) (box : List (Nat × Nat)) (m : Nat) : Nat :=
  if p.cmd.op == opGemm then (boxAt box dM).1 + m
  else
    let q := p.position box m
    q.2.2 + p.geo.ow * (q.2.1 + p.geo.oh * q.1)

/-! ## Winograd (R309-R312) -/

/-- Bᵀ and Aᵀ. -/
def winB : List (List Int) := [[1, 0, -1, 0], [0, 1, 1, 0], [0, -1, 1, 0], [0, 1, 0, -1]]
def winA : List (List Int) := [[1, 1, 1, 0], [0, 1, -1, -1]]
def matAt (m : List (List Int)) (i j : Nat) : Int := ((m[i]?).bind fun r => r[j]?).getD 0

/-- Entry (r, c) of V for the patch of an output block (R309). -/
def winV (patch : Nat → Nat → Int) (r c : Nat) : Int :=
  (List.range 4).foldl (fun a x => a + (List.range 4).foldl (fun b y => b + matAt winB r x * patch x y * matAt winB c y) 0) 0

/-- U at a transform position (R309): the low five bits of the WWINO byte. -/
def State.winU (s : State) (p : Plan) (c n xi : Nat) : Int :=
  let t := p.d roWwino
  toSigned 5 (s.rawAt t (t.idx xi c n 0))

/-! ## Passes (R65, R92, R99, R100, R301, R303, R310) -/

/-- Vectors of a pass: the rows of the tile, or its 2 × 2 blocks in the Winograd form. -/
def Plan.vectors (p : Plan) (box : List (Nat × Nat)) (wino : Bool) : Nat := if wino then p.rows box / 4 else p.rows box

/-- Passes of a tile. -/
def Plan.passCount (p : Plan) (wino : Bool) : Nat := if wino then 16 * ceilDiv (p.w.ext 2) 128 else p.passes

/-- Image, row and column of block `j` of a Winograd tile, its upper left output position, from the tile origin. -/
def Plan.block (p : Plan) (box : List (Nat × Nat)) (j : Nat) : Nat × Nat × Nat :=
  let bw := max 1 (p.tileExt dW / 2)
  let bh := max 1 (p.tileExt dH / 2)
  ((boxAt box dB).1 + j / (bw * bh), (boxAt box dH).1 + 2 * (j / bw % bh), (boxAt box dW).1 + 2 * (j % bw))

/-- Stook row of position (i, j) of a Winograd block (R295, R311). -/
def Plan.blockRow (p : Plan) (j i k : Nat) : Nat :=
  let tw := max 1 (p.tileExt dW)
  let bw := max 1 (tw / 2)
  let bh := max 1 (p.tileExt dH / 2)
  j / (bw * bh) * (tw * p.tileExt dH) + (2 * (j / bw % bh) + i) * tw + 2 * (j % bw) + k

/-- The patch of a block for channel `c` of X (R309); a block starts at an even position, so that its patch is that of its first tap. -/
def State.patch (s : State) (p : Plan) (box : List (Nat × Nat)) (c j x y : Nat) : Int :=
  let q := p.block box j
  -- input position (q - P + x, q - P + y): reached from output (q + x / 3, q + y / 3) by tap (x - x / 3, y - y / 3)
  s.gather p box c q.1 (q.2.1 + x / 3) (q.2.2 + y / 3) (x - x / 3) (y - y / 3)

/-- V_c at transform position `xi` (R309). -/
def State.winoOp (s : State) (p : Plan) (box : List (Nat × Nat)) (c j xi : Nat) : Int :=
  winV (fun x y => s.patch p box c j x y) (xi / 4) (xi % 4)

/-- Operand of channel `k` of pass `b` for vector `m`. Channels at or beyond the depth, listed outlier channels, and rows of a depthwise
pass without a channel take 0 (R99, R104, R303). -/
def State.passAct (s : State) (p : Plan) (box : List (Nat × Nat)) (wino : Bool) (b m k : Nat) : Int :=
  if wino then
    let c := 128 * (b / 16) + k
    if c < p.w.ext 2 then s.winoOp p box ((boxAt box dG).1 * p.w.ext 2 + c) m (b % 16) else 0
  else if p.cmd.op == opDwconv then
    let taps := p.geo.kh * p.geo.kw
    let n := b * p.cd + k / taps
    if k < p.cd * taps ∧ n < p.nt then
      let q := p.position box m
      let t := k % taps
      s.gather p box ((boxAt box dC).1 + n) q.1 q.2.1 q.2.2 (t / p.geo.kw) (t % p.geo.kw)
    else 0
  else
    let i := b * passDepth p.cmd.arith + k
    if i < p.kDepth && !(s.outliers p b).contains k then s.actOp p box m i else 0

/-- Weight operand of channel `k` of pass `b` in column `n`. What a register holds for a channel at or beyond the depth meets operand 0 and
cannot be read (R82, R99); the model has 0 there. -/
def State.passWgt (s : State) (p : Plan) (box : List (Nat × Nat)) (wino : Bool) (b k n : Nat) : Int :=
  if wino then
    let c := 128 * (b / 16) + k
    if c < p.w.ext 2 then s.winU p c (p.channel box n) (b % 16) else 0
  else if p.cmd.op == opDwconv then
    let taps := p.geo.kh * p.geo.kw
    if k < p.cd * taps ∧ b * p.cd + k / taps = n then
      s.opAt p.w (k % taps % p.geo.kw) (k % taps / p.geo.kw) (p.channel box n) 0
    else 0
  else
    let i := b * passDepth p.cmd.arith + k
    if i < p.kDepth then s.wgtOp p box n i else 0

/-- The row bus of the Field in a pass, vector and sub-cycle (R68, R69). -/
def State.rowBus (s : State) (p : Plan) (box : List (Nat × Nat)) (wino : Bool) (b m sub row : Nat) : BitVec 12 :=
  busWord p.cmd.arith sub ((List.range (slotCount p.cmd.arith)).map fun j => s.passAct p box wino b m (row + 128 * j))

/-- The weight set of a pass as a load leaves it in the background registers (R68, R70, R77, R101, R104, R110). -/
def State.loadWeights (s : State) (p : Plan) (box : List (Nat × Nat)) (wino : Bool) (b : Nat) : WRegs :=
  let mode := p.cmd.arith
  let cols := List.range p.nt
  let field := (List.range 128).foldl (fun t row => cols.foldl (fun t n =>
    Tab.set 0 t (512 * row + n)
      (weightWord mode ((List.range (slotCount mode)).map fun j => s.passWgt p box wino b (row + 128 * j) n))) t) []
  let outs := if wino then [] else s.outliers p b
  let slots (row n : Nat) : List Int :=
    if mode = 7 then (List.range 4).map fun j => s.passWgt p box wino b (128 + 32 * j + row) n
    else if row < outs.length then [s.opAt (p.d roOw) (32 * b + row) (p.channel box n) 0 0]
    else []
  let smithy := if mode = 7 || !outs.isEmpty then
      (List.range 32).foldl (fun t row => cols.foldl (fun t n => Tab.set 0 t (512 * row + n) (smithyWord (slots row n))) t) []
    else []
  { field := field, smithy := smithy }

/-- The Smithy takes operands in a sub-cycle: every one in A8W8S, the first with an outlier table (R104, R105, R110). -/
def Plan.smithyRuns (p : Plan) (wino : Bool) (sub : Nat) : Bool :=
  !wino && (p.cmd.arith == 7 || (p.has roOlist && sub == 0))

/-- The operand of a Smithy row in a pass, vector and sub-cycle. -/
def State.smithyOp (s : State) (p : Plan) (box : List (Nat × Nat)) (b m sub row : Nat) : Int :=
  if p.cmd.arith = 7 then s.passAct p box false b m (128 + 32 * sub + row)
  else if row < (s.outliers p b).length then s.opAt (p.d roOx) (32 * b + row) (p.oxRow box m) 0 0
  else 0

/-- The initial value of a column (R89). -/
def State.stookInit (s : State) (p : Plan) (box : List (Nat × Nat)) (n : Nat) : Int :=
  if p.cmd.init = 1 then toSigned 32 (s.rawAt (p.d roBias) (p.channel box n)) else 0

/-- The Stook rows that vector `m` of pass `b` updates, each with its coefficient: its own row, or the four rows of its block whose
coefficient is not 0 (R311). -/
def Plan.targets (p : Plan) (wino : Bool) (b m : Nat) : List (Nat × Int) :=
  if !wino then [(m, 1)]
  else ((List.range 4).map fun x =>
      let i := x / 2
      let j := x % 2
      (p.blockRow m i j, matAt winA i (b % 16 / 4) * matAt winA j (b % 4))).filter fun t => t.2 != 0

/-- The update of a row is its first in the tile, which initialises it (R89). -/
def Plan.firstUpdate (p : Plan) (wino : Bool) (b m sub row : Nat) : Bool :=
  sub == 0 && (if wino then decide (b < 16) && (List.range b).all fun x => !(p.targets true x m).any fun t => t.1 == row else b == 0)

/-! ## One engine cycle -/

/-- One vector and sub-cycle of a pass enters the Field: every column's partial sum, with the Smithy's addend, updates the Stook rows of
the vector (R60, R76, R85, R102, R111, R115, R116, R312). -/
def State.streamCycle (s : State) (p : Plan) (box : List (Nat × Nat)) (wino : Bool) (b m sub : Nat) (r : FieldRun) : FieldRun :=
  let mode := if wino then 0 else p.cmd.arith
  let runs := p.smithyRuns wino sub
  let smul := if mode = 7 then 1 else p.cmd.smul
  let sshift := if mode = 7 then 0 else p.cmd.sshift
  let before := r.smupd
  let r := (List.range p.nt).foldl (fun (r : FieldRun) n =>
    let part := columnSum mode sub (s.rowBus p box wino b m sub) fun row => Tab.get 0 r.fg.field (512 * row + n)
    let sm := if runs then
        smithySum (if mode = 7 then sub else 0) (s.smithyOp p box b m sub) fun row => Tab.get 0 r.fg.smithy (512 * row + n)
      else (0, 0)
    let add := if runs then smithyAddend sm.1 smul sshift else 0
    let r := if runs && !smithyChecks sm.1 sm.2 smul then { r with faults := r.faults ++ [⟨true, n⟩] } else r
    let r := if add ≠ 0 then { r with smupd := before + 1 } else r
    (p.targets wino b m).foldl (fun r t =>
      let init := if p.firstUpdate wino b m sub t.1 then some (s.stookInit p box n) else none
      let pres := if t.2 = -1 then (3 - part.2) % 3 else part.2
      r.update t.1 n init (t.2 * part.1) pres add (mod3 add)) r) r
  r

/-- A vector of a pass: its sub-cycles in the order of R75. A vector counts once in SMUPD. -/
def State.streamVector (s : State) (p : Plan) (box : List (Nat × Nat)) (wino : Bool) (b m : Nat) (subs : Nat) (r : FieldRun) : FieldRun :=
  let out := (List.range subs).foldl (fun r sub => s.streamCycle p box wino b m sub r) r
  { out with smupd := if r.smupd < out.smupd then r.smupd + 1 else r.smupd }

/-- Sub-cycles of a vector. -/
def Plan.subs (p : Plan) (wino : Bool) : Nat := if wino then 1 else subCycles p.cmd.arith

/-- The first `limit` cycles of COMPUTE in which an operand enters, pass by pass in ascending order (R92): each pass is loaded into the
background registers and exchanged before its first vector (R77, R78, R81). -/
def State.runPasses (s : State) (p : Plan) (box : List (Nat × Nat)) (wino : Bool) (limit : Nat) (r : FieldRun) : FieldRun :=
  let vs := p.vectors box wino
  let subs := p.subs wino
  (List.range (p.passCount wino)).foldl (fun (r : FieldRun) b =>
    if limit ≤ b * vs * subs ∧ 0 < b then r
    else
      let r := { r with bg := s.loadWeights p box wino b }.exchange
      (List.range vs).foldl (fun r m =>
        let before := (b * vs + m) * subs
        if limit ≤ before then r else s.streamVector p box wino b m (min subs (limit - before)) r) r) r

/-! ## Timing (R66, R67, R79-R81, R313, R335) -/

/-- Weight load cycles of a pass (R66, R67, R335). -/
def Plan.lw (p : Plan) : Nat :=
  passBytes p.cmd.arith / 128 + (if p.has roOlist then 128 else 0) + (if p.w.trans then 128 else 0)

/-- Passes, vectors × sub-cycles, weight load cycles, and C of a tile free of stalls. -/
def Plan.timing (p : Plan) (box : List (Nat × Nat)) (direct : Bool) : Nat × Nat × Nat × Nat :=
  let wino := p.wino && !direct
  let ps := p.passCount wino
  let ms := p.vectors box wino * p.subs wino
  let lw := if wino then 320 else p.lw
  (ps, ms, lw, lw + (ps - 1) * max ms lw + ms + 14)

/-- Operands synthesised under ZERO or CONST for the written positions of a tile (QPADGEN of R327): one for each tap and channel in the
direct form, one for each element of a patch in the Winograd form. POOL takes no operand where the window has no value (R317, R318). -/
def Plan.padCount (p : Plan) (box : List (Nat × Nat)) (direct : Bool) : Nat :=
  if p.cmd.op == opConv || p.cmd.op == opDwconv then
    let ch := if p.cmd.op == opConv then p.w.ext 2 else (boxAt box dC).2
    if p.wino && !direct then
      (List.range (p.vectors box true)).foldl (fun a j =>
        let q := p.block box j
        a + ch * ((List.range 16).filter fun x =>
          let r := p.geo.rowAt (q.2.1 + x / 4 / 3) (x / 4 - x / 4 / 3)
          let c := p.geo.colAt (q.2.2 + x % 4 / 3) (x % 4 - x % 4 / 3)
          (p.rowsAddressed box).contains r && (p.colsAddressed box).contains c &&
            ((mapIdx p.geo.mode p.geo.ih r).isNone || (mapIdx p.geo.mode p.geo.iw c).isNone)).length) 0
    else
      (List.range p.mt).foldl (fun a m =>
        if p.rowLive box m then
          let q := p.position box m
          a + ch * ((List.range (p.geo.kh * p.geo.kw)).filter fun t => (p.at q.2.1 q.2.2 (t / p.geo.kw) (t % p.geo.kw)).isNone).length
        else a) 0
  else 0

end Sys2Proof.Machine
end

