-- ==== Sys2Proof/Machine/Sieve.lean ====
section
/-! DEFINITION. The Sieve: multiplier, activation, rounding, clipping, statistics (R140-R161), and the generator of SR draws
(R153-R155). -/

namespace Sys2Proof.Machine

/-! ## The generator -/

def splitmix (z : Quad) : Quad :=
  let z := z + 0x9E3779B97F4A7C15
  let z := (z ^^^ (z >>> 30)) * 0xBF58476D1CE4E5B9
  let z := (z ^^^ (z >>> 27)) * 0x94D049BB133111EB
  z ^^^ (z >>> 31)

/-- Seed of lane `l` of an engine. -/
def srSeed (seed : Quad) (eng l : Nat) : Quad :=
  let z := splitmix (seed ^^^ BitVec.ofNat 64 (eng * 2 ^ 56) ^^^ BitVec.ofNat 64 (l * 2 ^ 48))
  if z = 0 then 0x9E3779B97F4A7C15 else z

/-- The next state of a lane, and its output. -/
def srNext (x : Quad) : Quad :=
  let x := x ^^^ (x >>> 12)
  let x := x ^^^ (x <<< 25)
  x ^^^ (x >>> 27)
def srOut (x : Quad) : Quad := x * 0x2545F4914F6CDD1D

/-- A lane after `n` steps. -/
def srSteps : Nat → Quad → Quad
  | 0, x => x
  | n + 1, x => srSteps n (srNext x)

/-- The draw of column `n` in DRAIN row `m`, counted from the lanes as the tile finds them (R154). -/
def srDraw (lanes : Tab Quad) (m n : Nat) : Nat :=
  let o := (srOut (srSteps (m + 1) (Tab.get 0 lanes (n / 4)))).toNat
  o / 2 ^ (16 * (n % 4)) % 65536

/-- All lanes after `rows` DRAIN rows. -/
def srAdvance (lanes : Tab Quad) (rows : Nat) : Tab Quad :=
  (List.range 128).foldl (fun t l => Tab.set 0 t l (srSteps rows (Tab.get 0 lanes l))) []

/-! ## One element -/

/-- What the Sieve makes of an element: the stored code, its clip counts, and the value of u′ − z that statistics take. -/
structure Elem where
  raw : Nat
  hi : Bool := false
  lo : Bool := false
  ext : Option Word := none
deriving DecidableEq, Repr

/-- Fraction units of 2^−16. -/
def q16 : Nat := 65536

/-- u from an exact product, saturated at 2^23 (R140 step 2, R142). -/
def satU (x : Int) : Int :=
  let lim : Int := (2 ^ 23 * 65536 : Nat)
  if lim < x then lim else if x < -lim then -lim else x

/-- The activation on u in units of 2^−16 (R144, R146). -/
def State.activate (s : State) (p : Plan) (zo u : Int) : Int :=
  let z := zo * q16
  if p.cmd.actfn = 1 then max u z
  else if p.cmd.actfn = 2 then (if z ≤ u then u else z + rneInt ((u - z) * p.cmd.alpha) 256)
  else if p.cmd.actfn = 3 then min (max u (toSigned 16 p.cmd.clo * q16)) (toSigned 16 p.cmd.chi * q16)
  else if p.cmd.actfn = 4 then
    let a := (p.d roActtab).addr
    let tlo := toSigned 16 (leNat (s.memBytes a 2))
    let tsh := toSigned 8 (s.memByte (a + 2)).toNat
    let t (i : Nat) : Int := toSigned 16 (leNat (s.memBytes (a + 64 + 2 * i) 2)) * 4096
    let v := u - tlo * q16
    let v := if 0 ≤ tsh then v * 2 ^ tsh.toNat else v / (2 ^ (-tsh).toNat : Nat)
    let i := v / q16
    let f := v % q16
    if i < 0 then t 0 else if 255 ≤ i then t 255
    else t i.toNat + rneInt (f * (t (i.toNat + 1) - t i.toNat)) q16
  else u

/-- Round u′ to an integer: RNE, or SR with a draw (R147, R148). -/
def roundU (sr : Bool) (u : Int) (draw : Nat) : Int := if sr then (u + draw) / q16 else rneInt u q16

/-- Clip an integer to a code type and encode it (R149). -/
def clipCode (code : Nat) (q : Int) : Nat × Bool × Bool :=
  if code = cBin then (encodeCode code q, false, false)
  else if codeMax code < q then (encodeCode code (codeMax code), true, false)
  else if q < codeMin code then (encodeCode code (codeMin code), false, true)
  else (encodeCode code q, false, false)

/-- Steps 3 to 6 of R140 for a code output, from u; `eps` is a departure of u′ that R182 allows. -/
def State.sieveU (s : State) (p : Plan) (code : Nat) (zo u : Int) (draw : Nat) (eps : Int := 0) : Elem :=
  let v := s.activate p zo (satU u + zo * q16) + eps
  let c := clipCode code (roundU (p.cmd.round == 1) v draw)
  { raw := c.1, hi := c.2.1, lo := c.2.2, ext := some (fofRat (v - zo * q16) q16) }

/-- A BF16 or FP32 output from d (R151): activation in FP32, conversion, and the largest finite value for one beyond it. -/
def sieveReal (p : Plan) (code : Nat) (d : Word) (draw : Nat) : Elem :=
  let neg := fpNeg d && !fpNan d
  let d := if p.cmd.actfn = 1 then (if neg then 0 else d)
    else if p.cmd.actfn = 2 ∧ neg then fmul (fofRat p.cmd.alpha 256) d else d
  if code = cFp32 then
    if fpInf d then { raw := (fpMaxFinite (fpNeg d)).toNat, hi := !fpNeg d, lo := fpNeg d, ext := some d }
    else { raw := d.toNat, ext := some d }
  else
    let b := if p.cmd.round = 1 ∧ !fpInf d then bfSr d draw else bfRne d
    if b.toNat % 32768 = 0x7F80 then
      { raw := (bfMaxFinite (fpNeg d)).toNat, hi := !fpNeg d, lo := fpNeg d, ext := some d }
    else { raw := b.toNat, ext := some d }

/-- Scale context of an element: the two input scale codes' values, the output block's, and its zero point. -/
structure Scales where
  ga : Word
  gw : Word := 0x3F800000
  go : Word
  va : Nat
  vw : Nat := 1
  vo : Nat
  zo : Int
deriving DecidableEq, Repr

def fpOne : Word := 0x3F800000

/-- R of an element (R141), divided by a count where a mean is formed (R318). -/
def Scales.mult (c : Scales) (div : Nat) : Word :=
  let t1 := fdiv (fmul c.ga c.gw) c.go
  let r := fmul (fmul t1 (fofInt (c.va * c.vw : Nat))) (fdiv fpOne (fofInt (c.vo : Nat)))
  if div ≤ 1 then r else fmul r (fdiv fpOne (fofInt (div : Nat)))

/-- Rd of a BF16 or FP32 output (R151), divided in the same manner. -/
def Scales.multReal (c : Scales) (div : Nat) : Word :=
  let r := fmul (fmul c.ga c.gw) (fofInt (c.va * c.vw : Nat))
  if div ≤ 1 then r else fmul r (fdiv fpOne (fofInt (div : Nat)))

/-- The raw code of a zero point. -/
def zeroRaw (code : Nat) (zo : Int) : Nat := ofSigned (codeBits code) zo

/-- The Sieve on an accumulator `acc / 2^fb` (R140-R151). An S32 output takes the accumulator as it stands (R150, log 98). 0 times a
multiplier that is not finite is a value the spec does not state; another accumulator then takes the limit of its sign (log 99). In a block
of scale code 0 the stored code of BIN is that of zo = 0 in two's complement, 0 (log 100). -/
def State.sieve (s : State) (p : Plan) (c : Scales) (acc : Int) (fb div draw : Nat) : Elem :=
  let code := p.y.code
  if code = cS32 then { raw := ofSigned 32 acc }
  else if code = cBf16 ∨ code = cFp32 then
    let r := c.multReal div
    let d := if fpInf r ∨ fpNan r then fpSigned (decide (acc < 0)) (if acc = 0 then Config.valueOf 0 acc r.toNat % 2 ^ 31 else 0x7F800000)
      else let q := fpRat r; fofRat (acc * q.1) (q.2 * 2 ^ fb)
    sieveReal p code d draw
  else if c.vo = 0 then { raw := zeroRaw code c.zo }
  else
    let r := c.mult div
    let u : Int :=
      if fpInf r ∨ fpNan r then (if acc = 0 then (Config.valueOf 1 acc r.toNat : Int) else if acc < 0 then -(2 ^ 60 : Nat) else (2 ^ 60 : Nat))
      else let q := fpRat r; rneInt (acc * q.1 * q16) (q.2 * 2 ^ fb)
    s.sieveU p code c.zo u draw

/-- A finite pattern moved by at most one unit in the last place, which R182 bounds and no rule fixes (log 14). -/
def freeUlp (w : Word) (x : Int) (d : Nat) : Word :=
  let v := (w.toNat % 2 ^ 31 + Config.valueOf 2 x d % 3) - 1
  if fpInf w ∨ fpNan w ∨ v ≥ 0x7F800000 then w else fpSigned (fpNeg w) v

/-- A multiple of 2^−16 within the margin δ = 16 / 65,536 of an exact quotient in that unit, which R182 bounds and no rule fixes (log 14). -/
def nearU (n : Int) (d m : Nat) : Int :=
  let lo := -((-(n - m * d)) / (d : Int))
  let hi := (n + m * d) / (d : Int)
  lo + ((Config.valueOf 3 n d % ((hi - lo).toNat + 1) : Nat) : Int)

/-- The Sieve on an exact real result (ELTW, REDUCE, and inputs without a scale: R182). The departure from the exact value comes before an
activation that does not stretch it, and after TABLE. -/
def State.sieveExact (s : State) (p : Plan) (c : Scales) (x : Int) (d : Nat) (draw : Nat) : Elem :=
  let code := p.y.code
  if code = cS32 then
    (if x % d = 0 ∧ -2147483648 ≤ x / d ∧ x / d ≤ 2147483647 then { raw := ofSigned 32 (x / d) } else { raw := Config.valueOf 4 x d % 2 ^ 32 })
  else if code = cBf16 ∨ code = cFp32 then sieveReal p code (freeUlp (fofRat x d) x d) draw
  else if c.vo = 0 then { raw := zeroRaw code c.zo }
  else
    let g := fpRat c.go
    let n := x * g.2 * q16
    let e := d * g.1.natAbs * c.vo
    if p.cmd.actfn = 4 then s.sieveU p code c.zo (rneInt n e) draw ((Config.valueOf 3 n e % 31 : Nat) - 15)
    else s.sieveU p code c.zo (nearU n e (if p.cmd.actfn = 2 then 15 else 16)) draw

/-- An element whose result no rule states: a free code, from which its statistics follow. `key` stands for its operands. -/
def State.sieveFree (_ : State) (p : Plan) (c : Scales) (key : Nat) : Elem :=
  let code := p.y.code
  let raw := Config.valueOf 5 0 key % 2 ^ codeBits code
  { raw := raw, ext := if codeScaled code then some (fofInt (decodeCode code raw - c.zo))
      else if code = cFp32 then some (BitVec.ofNat 32 raw) else if code = cBf16 then some (bfWide (BitVec.ofNat 16 raw)) else none }

/-! ## The product of a tile -/

/-- What a tile's DRAIN delivers: elements by index, counts, extremes by scale block. -/
structure TileOut where
  writes : List (Nat × Nat) := []
  elems : Nat := 0
  cliph : Nat := 0
  clipl : Nat := 0
  satin : Nat := 0
  ext : Tab (Option (Word × Word)) := []
deriving DecidableEq, Repr

/-- Merge one value into the extremes of a block (R156, R464). -/
def mergeExt (t : Tab (Option (Word × Word))) (b : Nat) (hi lo : Word) : Tab (Option (Word × Word)) :=
  Tab.set none t b (some (match Tab.get none t b with
    | some (h, l) => (fmax h hi, fmin l lo)
    | none => (hi, lo)))

/-- Add an element at output coordinates. -/
def TileOut.put (o : TileOut) (y : Desc) (i0 i1 i2 i3 : Nat) (e : Elem) (sat : Bool := false) : TileOut :=
  let ix (d : Nat) : Nat := if d = 0 then i0 else if d = 1 then i1 else if d = 2 then i2 else i3
  { writes := (y.idx i0 i1 i2 i3, e.raw) :: o.writes, elems := o.elems + 1
    cliph := o.cliph + (if e.hi then 1 else 0), clipl := o.clipl + (if e.lo then 1 else 0)
    satin := o.satin + (if sat then 1 else 0)
    ext := match e.ext with
      | some w => mergeExt o.ext (y.blockOf ix) w w
      | none => o.ext }

/-- Output scale context at coordinates; `ga` and `va` of an input without a scale are 1. -/
def State.outScales (s : State) (y : Desc) (i0 i1 i2 i3 : Nat) : Scales :=
  let ix (d : Nat) : Nat := if d = 0 then i0 else if d = 1 then i1 else if d = 2 then i2 else i3
  { ga := fpOne, va := 1, go := if codeScaled y.code then s.stG y.stab else fpOne
    vo := if codeScaled y.code then scaleVal (s.scCode y.stab (y.blockOf ix)) else 1, zo := s.zeroPt y ix }

/-- The second-level scale and block scale value of an input element. -/
def State.inScale (s : State) (t : Desc) (i0 i1 i2 i3 : Nat) : Word × Nat :=
  let ix (d : Nat) : Nat := if d = 0 then i0 else if d = 1 then i1 else if d = 2 then i2 else i3
  if codeScaled t.code then (s.stG t.stab, scaleVal (s.scCode t.stab (t.blockOf ix))) else (fpOne, 1)

/-- Where an element of Z lies in Y (R305). -/
def Plan.yAt (p : Plan) (w h c b : Nat) : Nat × Nat × Nat × Nat :=
  let f := p.geo.d2s
  if p.cmd.op == opConv && decide (1 < f) then (w * f + c % (f * f) % f, h * f + c % (f * f) / f, c / (f * f), b) else (w, h, c, b)

/-- Output coordinates of row `m` and column `n` of a Field, POOL or BOXPOOL tile. -/
def Plan.outAt (p : Plan) (box : List (Nat × Nat)) (m n : Nat) : Nat × Nat × Nat × Nat :=
  if p.cmd.op == opGemm then ((boxAt box dN).1 + n, (boxAt box dM).1 + m, 0, 0)
  else
    let q := p.position box m
    p.yAt q.2.2 q.2.1 (p.channel box n) q.1

/-- The scales of a Field element (R141, R284, R308): activation block of its row, weight column, output block. -/
def State.fieldScales (s : State) (p : Plan) (box : List (Nat × Nat)) (direct : Bool) (m n : Nat) : Scales :=
  let o := p.outAt box m n
  let so := s.outScales p.y o.1 o.2.1 o.2.2.1 o.2.2.2
  let ch := p.channel box n
  let q := p.position box m
  let a := if p.cmd.op == opGemm then
      (let r := (boxAt box dM).1 + m; if p.x.trans then s.inScale p.x r 0 0 0 else s.inScale p.x 0 r 0 0)
    else if p.cmd.op == opDwconv then s.inScale p.x 0 0 ch q.1 else s.inScale p.x 0 0 0 q.1
  let w := if p.cmd.op == opGemm then (if p.w.trans then s.inScale p.w ch 0 0 0 else s.inScale p.w 0 ch 0 0)
    else if p.cmd.op == opDwconv then s.inScale p.w 0 0 ch 0
    else if p.wino && !direct then s.inScale (p.d roWwino) 0 0 ch 0 else s.inScale p.w 0 0 0 ch
  { so with ga := a.1, va := a.2, gw := w.1, vw := w.2 }

/-- An entry whose saturation the Sieve counts (R152): not one of an S32 output or of a block of scale code 0, of which only ELEMS is counted
(R143, R150). -/
def countsSat (p : Plan) (c : Scales) (sat : Bool) : Bool := sat && p.y.code != cS32 && !(codeScaled p.y.code && c.vo == 0)

/-- The output of a Field tile from its accumulators. -/
def State.drainField (s : State) (p : Plan) (box : List (Nat × Nat)) (direct : Bool) (acc : Nat → Nat → Int × Bool)
    (lanes : Tab Quad) : TileOut :=
  (List.range (p.rows box)).foldl (fun o m =>
    if p.rowLive box m then
      (List.range (p.colsLive box)).foldl (fun o n =>
        let a := acc m n
        let at_ := p.outAt box m n
        let c := s.fieldScales p box direct m n
        o.put p.y at_.1 at_.2.1 at_.2.2.1 at_.2.2.2 (s.sieve p c a.1 0 1 (srDraw lanes m n)) (countsSat p c a.2)) o
    else o) {}

end Sys2Proof.Machine
end

