-- ==== Sys2Proof/Machine/Elem.lean ====
section
/-! DEFINITION. Tiles of the opcodes without the Field: POOL, BOXPOOL, ELTW, REDUCE, LUT, COPY and STATS (R170, R212, R316-R326,
R439). -/

namespace Sys2Proof.Machine

/-- Fold over the points of a rectangle W × H × C × B, W fastest. -/
def overBox {α : Type} (b : List (Nat × Nat)) (f : α → Nat → Nat → Nat → Nat → α) (a : α) : α :=
  let r (d : Nat) : List Nat := (List.range (boxAt b d).2).map fun i => (boxAt b d).1 + i
  (r dB).foldl (fun a i3 => (r dC).foldl (fun a i2 => (r dH).foldl (fun a i1 => (r dW).foldl (fun a i0 => f a i0 i1 i2 i3) a) a) a) a

/-- The number of points of a rectangle W × H × C × B. -/
def boxSize (b : List (Nat × Nat)) : Nat := (boxAt b dW).2 * (boxAt b dH).2 * (boxAt b dC).2 * (boxAt b dB).2

/-! ## POOL (R316-R319) -/

/-- Codes less zero point, and raw codes, that a window's positions carry. -/
def State.poolWindow (s : State) (p : Plan) (b oh ow c : Nat) : List (Int × Nat) :=
  (List.range (p.geo.kh * p.geo.kw)).filterMap fun t =>
    (p.at oh ow (t / p.geo.kw) (t % p.geo.kw)).map fun q => (s.opAt p.x q.2 q.1 c b, s.rawAt p.x (p.x.idx q.2 q.1 c b))

/-- One element of a POOL tile. -/
def State.poolElem (s : State) (p : Plan) (b oh ow c draw : Nat) : Elem :=
  let w := s.poolWindow p b oh ow c
  let so := s.outScales p.y ow oh c b
  if bitOf (p.cmd.im 47) 0 then
    let n := if bitOf (p.cmd.im 47) 1 then p.geo.kh * p.geo.kw else w.length
    if n = 0 then { raw := zeroRaw p.y.code so.zo }
    else
      let a := s.inScale p.x 0 0 c b
      s.sieve p { so with ga := a.1, va := a.2 } (w.foldl (fun a e => a + e.1) 0) 0 n draw
  else
    match w with
    | [] => { raw := zeroRaw p.y.code so.zo }
    | e :: l =>
      { raw := (l.foldl (fun (m : Nat) x => if decodeCode p.x.code m < decodeCode p.x.code x.2 then x.2 else m) e.2) }

/-- A POOL tile: rows hold positions, columns hold channels. -/
def State.poolTile (s : State) (p : Plan) (box : List (Nat × Nat)) (lanes : Tab Quad) : TileOut :=
  (List.range p.mt).foldl (fun o m =>
    if p.rowLive box m then
      let q := p.position box m
      (List.range (boxAt box dC).2).foldl (fun o n =>
        let c := (boxAt box dC).1 + n
        o.put p.y q.2.2 q.2.1 c q.1 (s.poolElem p q.1 q.2.1 q.2.2 c (srDraw lanes m n))) o
    else o) {}

/-! ## BOXPOOL (R320-R325) -/

/-- A box record. -/
structure BoxRec where
  y0 : Int
  x0 : Int
  y1 : Int
  x1 : Int
  bidx : Nat
  resv : Bool
deriving DecidableEq, Repr

def State.boxRec (s : State) (a i : Nat) : BoxRec :=
  let b := s.memBytes (a + 32 * i) 32
  { y0 := toSigned 32 (fld b 0 4), x0 := toSigned 32 (fld b 4 4), y1 := toSigned 32 (fld b 8 4), x1 := toSigned 32 (fld b 12 4)
    bidx := fld b 16 2, resv := decide (leNat (b.drop 18) ≠ 0) }

/-- R322. -/
def Plan.boxEmpty (p : Plan) (b : BoxRec) : Bool :=
  decide (b.y1 ≤ b.y0) || decide (b.x1 ≤ b.x0) || decide (p.x.ext 3 ≤ b.bidx) || b.resv

/-- A Q16.16 number as FP32. -/
def q16fp (v : Int) : Word := fofRat v q16
def fpHalf : Word := 0x3F000000

/-- Position of sample `i` of bin `b` along one axis (R323): edges, bins and samples per bin. -/
def samplePos (lo hi : Int) (bins samp b i : Nat) : Word :=
  let w := fdiv (fsub (q16fp hi) (q16fp lo)) (fofInt (bins : Nat))
  fadd (q16fp lo) (fmul (fadd (fofInt (b : Nat)) (fdiv (fadd (fofInt (i : Nat)) fpHalf) (fofInt (samp : Nat)))) w)

/-- The two indices and the fraction of a sample along one axis (R324); none where it lies outside the image. -/
def sampleAt (pos : Word) (ext : Nat) : Option (Nat × Nat × (Int × Nat)) :=
  let yy := fsub pos fpHalf
  if flt yy (fofInt (-1)) || flt (fofInt (ext : Nat)) yy || fpNan yy then none
  else
    let c := fmin (fmax yy 0) (fofInt ((ext : Int) - 1))
    let q := fpRat c
    let i := (q.1 / (q.2 : Int)).toNat
    some (i, min (i + 1) (ext - 1), (q.1 - i * q.2, q.2))

/-- A sample's value with 16 fraction bits (R324). -/
def State.sampleVal (s : State) (p : Plan) (b : BoxRec) (c : Nat) (y x : Nat × Nat × (Int × Nat)) : Int :=
  let w (f g : Int × Nat) : Int := rneInt (f.1 * g.1 * q16) (f.2 * g.2)
  let inv (f : Int × Nat) : Int × Nat := (f.2 - f.1, f.2)
  let v (r q : Nat) : Int := s.opAt p.x q r c b.bidx
  w (inv y.2.2) (inv x.2.2) * v y.1 x.1 + w (inv y.2.2) x.2.2 * v y.1 x.2.1 + w y.2.2 (inv x.2.2) * v y.2.1 x.1 +
    w y.2.2 x.2.2 * v y.2.1 x.2.1

/-- The samples of a bin that lie in the image. -/
def State.binSamples (s : State) (p : Plan) (b : BoxRec) (c ph pw : Nat) : List Int :=
  let n := p.cmd.im 42
  (List.range (n * n)).filterMap fun t =>
    match sampleAt (samplePos b.y0 b.y1 (p.cmd.im 40) n ph (t / n)) p.geo.ih, sampleAt (samplePos b.x0 b.x1 (p.cmd.im 41) n pw (t % n)) p.geo.iw with
    | some y, some x => some (s.sampleVal p b c y x)
    | _, _ => none

/-- One element of a BOXPOOL tile (R325). -/
def State.boxElem (s : State) (p : Plan) (b : BoxRec) (box c ph pw draw : Nat) : Elem :=
  let so := s.outScales p.y pw ph c box
  let a := s.inScale p.x 0 0 c b.bidx
  let so := { so with ga := a.1, va := a.2 }
  let v := s.binSamples p b c ph pw
  if p.cmd.im 43 = 0 then
    match v with
    | [] => { raw := zeroRaw p.y.code so.zo }
    | e :: l => s.sieve p so (l.foldl max e) 16 1 draw
  else s.sieve p so (v.foldl (fun a x => a + x) 0) 16 (p.cmd.im 42 * p.cmd.im 42) draw

/-- A BOXPOOL tile, and its elements of empty boxes (R322). -/
def State.boxTile (s : State) (p : Plan) (box : List (Nat × Nat)) (lanes : Tab Quad) : TileOut × Nat :=
  let bh := p.cmd.im 40
  let bw := p.cmd.im 41
  (List.range (boxAt box dM).2).foldl (fun (acc : TileOut × Nat) l =>
    let i := (boxAt box dM).1 + l
    let b := s.boxRec (p.d roBoxes).addr i
    let empty := p.boxEmpty b
    let o := (List.range (bh * bw)).foldl (fun o t => (List.range (boxAt box dC).2).foldl (fun (o : TileOut) n =>
      let c := (boxAt box dC).1 + n
      let m := l * bh * bw + t
      if empty then
        { o with writes := (p.y.idx (t % bw) (t / bw) c i, zeroRaw p.y.code (s.outScales p.y (t % bw) (t / bw) c i).zo) :: o.writes }
      else o.put p.y (t % bw) (t / bw) c i (s.boxElem p b i c (t / bw) (t % bw) (srDraw lanes m n))) o) acc.1
    (o, acc.2 + if empty then bh * bw * (boxAt box dC).2 else 0)) ({}, 0)

/-! ## Elementwise commands -/

/-- The real value of an element as a quotient (R127); none for a pattern that is not finite. -/
def State.realAt (s : State) (t : Desc) (i0 i1 i2 i3 : Nat) : Option (Int × Nat) :=
  let raw := s.rawAt t (t.idx i0 i1 i2 i3)
  if t.code = cS32 then some (toSigned 32 raw, 1)
  else if t.code = cBf16 ∨ t.code = cFp32 then
    let w := if t.code = cFp32 then BitVec.ofNat 32 raw else bfWide (BitVec.ofNat 16 raw)
    if fpInf w ∨ fpNan w then none else some (fpRat w)
  else
    let sc := s.inScale t i0 i1 i2 i3
    let g := fpRat sc.1
    some (s.opAt t i0 i1 i2 i3 * sc.2 * g.1, g.2)

/-- Exact operations on quotients. -/
def qadd (a b : Int × Nat) : Int × Nat := (a.1 * b.2 + b.1 * a.2, a.2 * b.2)
def qlt (a b : Int × Nat) : Bool := decide (a.1 * b.2 < b.1 * a.2)
def qmax (a b : Int × Nat) : Int × Nat := if qlt a b then b else a
def qmin (a b : Int × Nat) : Int × Nat := if qlt b a then b else a

/-- The operation of an ELTW: 0 ADD, 1 SUB, 2 MUL, 3 MAX, 4 MIN. -/
def eltOp (op : Nat) (a b : Int × Nat) : Int × Nat :=
  if op = 0 then qadd a b else if op = 1 then qadd a (-b.1, b.2) else if op = 2 then (a.1 * b.1, a.2 * b.2)
  else if op = 3 then qmax a b else qmin a b

/-- A list of codes as one number. -/
def codesKey (l : List Nat) : Nat := l.foldl (fun a x => a * 2 ^ 32 + x) 1

/-- A result that may not be finite, through the Sieve; `codes` are its operands as stored. -/
def State.sieveOpt (s : State) (p : Plan) (c : Scales) (x : Option (Int × Nat)) (draw : Nat) (codes : List Nat) : Elem :=
  match x with
  | some q => s.sieveExact p c q.1 q.2 draw
  | none => s.sieveFree p c (codesKey codes)

/-- A draw of an elementwise command: the rows and columns its elements take in the Sieve are not stated, so its draws are
free (log 15). -/
def freeDraw (k : Nat) : Nat := Config.freeNat k % 65536

/-- An element of ELTW. -/
def State.eltElem (s : State) (p : Plan) (i0 i1 i2 i3 k : Nat) : Elem :=
  let c := p.cmd
  let j (d i : Nat) : Nat := if c.bcast d then 0 else i
  let r := match s.realAt p.x i0 i1 i2 i3, s.realAt (p.d roX2) (j 0 i0) (j 1 i1) (j 2 i2) (j 3 i3) with
    | some a, some b => some (eltOp (c.im 40) a b)
    | _, _ => none
  s.sieveOpt p (s.outScales p.y i0 i1 i2 i3) r (freeDraw k)
    [s.rawAt p.x (p.x.idx i0 i1 i2 i3), s.rawAt (p.d roX2) ((p.d roX2).idx (j 0 i0) (j 1 i1) (j 2 i2) (j 3 i3))]

/-- An element of COPY (convert) or STATS: codes take R141 with their own scale, other types their real value. -/
def State.convElem (s : State) (p : Plan) (i0 i1 i2 i3 k : Nat) : Elem :=
  let so := s.outScales p.y i0 i1 i2 i3
  if codeScaled p.x.code then
    let a := s.inScale p.x i0 i1 i2 i3
    s.sieve p { so with ga := a.1, va := a.2 } (s.opAt p.x i0 i1 i2 i3) 0 1 (freeDraw k)
  else s.sieveOpt p so (s.realAt p.x i0 i1 i2 i3) (freeDraw k) [s.rawAt p.x (p.x.idx i0 i1 i2 i3)]

/-- An element of LUT: the table byte of the code, where it is a code of the output; another result is not stated. -/
def State.lutElem (s : State) (p : Plan) (i0 i1 i2 i3 : Nat) : Elem :=
  let raw := s.rawAt p.x (p.x.idx i0 i1 i2 i3)
  let v := (s.memByte ((p.d roLtab).addr + raw)).toNat
  let w := codeBits p.y.code
  { raw := if raw < 256 ∧ v < 2 ^ w ∧ w ≤ 8 then v else Config.valueOf 6 raw v % 2 ^ w }

/-- The positions along an axis that a REDUCE reduces. -/
def Plan.axisRange (p : Plan) (d i : Nat) : List Nat :=
  if p.cmd.axis d then (List.range (p.E (ewDim d))).filter fun x => p.walked (ewDim d) x else [i]

/-- An element of REDUCE: 0 SUM, 1 MAX, 2 MIN, 3 MEAN over the AXES dimensions. -/
def State.redElem (s : State) (p : Plan) (i0 i1 i2 i3 k : Nat) : Elem :=
  let pts := ((p.axisRange 3 i3).map fun a3 => ((p.axisRange 2 i2).map fun a2 => ((p.axisRange 1 i1).map fun a1 =>
    (p.axisRange 0 i0).map fun a0 => (a0, a1, a2, a3)).flatten).flatten).flatten
  let vals := pts.map fun a => s.realAt p.x a.1 a.2.1 a.2.2.1 a.2.2.2
  let op := p.cmd.im 40
  let fold (f : Int × Nat → Int × Nat → Int × Nat) : Option (Int × Nat) :=
    vals.foldl (fun (acc : Option (Int × Nat) × Bool) v =>
      match acc.1, v with
      | some a, some b => (some (if acc.2 then b else f a b), false)
      | _, _ => (none, false)) (some (0, 1), true) |>.1
  let r := if op = 1 then fold qmax else if op = 2 then fold qmin
    else (fold qadd).map fun q => if op = 3 then (q.1, q.2 * vals.length) else q
  let y (d i : Nat) : Nat := if p.cmd.axis d then 0 else i
  s.sieveOpt p (s.outScales p.y (y 0 i0) (y 1 i1) (y 2 i2) (y 3 i3)) r (freeDraw k)
    (pts.map fun a => s.rawAt p.x (p.x.idx a.1 a.2.1 a.2.2.1 a.2.2.2))

/-- The points of a REDUCE tile: the reduced dimensions stand at one point. -/
def Plan.redBox (p : Plan) (box : List (Nat × Nat)) : List (Nat × Nat) :=
  (List.range 10).map fun d => if (List.range 4).any (fun i => ewDim i == d && p.cmd.axis i) then (0, 1) else boxAt box d

/-- A tile of an elementwise command. -/
def State.ewTile (s : State) (p : Plan) (box : List (Nat × Nat)) (k : Nat) : TileOut :=
  let c := p.cmd
  let box := if c.op == opReduce then p.redBox box else box
  let key (i0 i1 i2 i3 : Nat) : Nat :=
    k + ((i0 - (boxAt box dW).1) + (boxAt box dW).2 * ((i1 - (boxAt box dH).1) + (boxAt box dH).2 * ((i2 - (boxAt box dC).1) +
      (boxAt box dC).2 * (i3 - (boxAt box dB).1))))
  overBox box (fun (o : TileOut) i0 i1 i2 i3 =>
    let q := key i0 i1 i2 i3
    if c.op == opEltw then o.put p.y i0 i1 i2 i3 (s.eltElem p i0 i1 i2 i3 q)
    else if c.op == opReduce then o.put p.y i0 i1 i2 i3 (s.redElem p i0 i1 i2 i3 q)
    else if c.op == opLut then o.put p.y i0 i1 i2 i3 (s.lutElem p i0 i1 i2 i3)
    else if c.copyIs subTranspose then
      let raw := s.rawAt p.x (p.x.idx i0 i1 i2 i3)
      o.put p.y i1 i0 i2 i3 { raw := if p.x.code = p.y.code then raw else Config.valueOf 7 raw p.x.code % 2 ^ codeBits p.y.code }
    else if c.op == opStats then
      let e := s.convElem p i0 i1 i2 i3 q
      o.put p.y i0 i1 i2 i3 { e with hi := false, lo := false }
    else o.put p.y i0 i1 i2 i3 (s.convElem p i0 i1 i2 i3 q)) {}

end Sys2Proof.Machine
end

