-- ==== Sys2Proof/Machine/Optim.lean ====
section
/-! DEFINITION. Deriving scale codes (R166-R168) and the optimiser step (R172-R178). -/

namespace Sys2Proof.Machine

/-! ## Deriving a scale code (R166-R168) -/

/-- The smallest code from 1 whose value times G is at least `req`; none where no code is. -/
def codeFor (g req : Word) : Option Nat :=
  ((List.range 255).map fun i => i + 1).find? fun c => !flt (fmul (fofInt (scaleVal c : Nat)) g) req && !fpNan req

/-- What a derivation gives a block: code, zero point, and whether it was constant or out of range. -/
structure Derived where
  code : Nat
  zp : Nat
  const : Bool := false
  clipped : Bool := false
deriving DecidableEq, Repr

/-- R166 on a block's greatest and least real value; `zold` is the zero point in force, which a constant block keeps (R167). -/
def derive (unsigned : Bool) (bits : Nat) (g : Word) (mg : Nat) (hi lo : Word) (zold : Nat) : Derived :=
  let rmax := fmax 0 hi
  let rmin := fmin 0 lo
  let q : Nat := if unsigned then 2 ^ bits - 1 else 2 ^ (bits - 1) - 1
  let range := if unsigned then fsub rmax rmin else fmax rmax (fsub 0 rmin)
  if (fpRat range).1 = 0 ∧ !fpInf range ∧ !fpNan range then { code := 1, zp := if unsigned then zold else 0, const := true }
  else
    let req := fdiv (fmul range (fadd fpOne (fdiv (fofInt (mg : Nat)) (fofInt 256)))) (fofInt (q : Nat))
    let (c, clipped) := match codeFor g req with
      | some c => (c, false)
      | none => (255, true)
    let s := fmul (fofInt (scaleVal c : Nat)) g
    let d := fdiv (fsub 0 rmin) s
    let z := fpRat d
    { code := c, clipped := clipped
      zp := if !unsigned then 0 else if fpNan d then Config.valueOf 8 rmin.toNat s.toNat % (q + 1)
        else if fpInf d then q else (min (max (rneInt z.1 z.2) 0) q).toNat }

/-- The derivation for a tensor stored by OPTIM: block extremes alone, no headroom (R174). -/
def deriveState (unsigned : Bool) (bits : Nat) (g : Word) (hi lo : Word) : Derived := derive unsigned bits g 0 hi lo 0

/-! ## The step (R173) -/

/-- The parameter block and the values formed once per command. -/
structure OptCfg where
  adamw : Bool
  msr : Bool
  ssr : Bool
  lr : Word
  mu : Word
  b1 : Word
  b2 : Word
  eps : Word
  wd : Word
  gscale : Word
  ob1 : Word
  ob2 : Word
  c1 : Word
  c2 : Word
deriving DecidableEq, Repr

/-- B^t in FP64: the exact power rounded, up to one unit in the last place, since R173 does not say how the power is rounded (log 11). -/
def powFP64 (b : Quad) (t : Nat) : Quad :=
  let q := fp64Rat b
  let r := fp64Round (decide (q.1 < 0) && t % 2 == 1) (q.1.natAbs ^ t) (q.2 ^ t)
  if q.1 = 0 ∨ t ≤ 1 then r else BitVec.ofNat 64 (r.toNat + Config.valueOf 9 b.toNat t % 3 - 1)

/-- 1 − B and 1 / (1 − B^t) in FP64, rounded to FP32. -/
def biasCorr (b : Word) (t : Nat) : Word × Word :=
  let q := fpRat b
  let b64 := fp64Round (decide (q.1 < 0)) q.1.natAbs q.2
  let sub (x : Quad) : Quad := let r := fp64Rat x; let n := (r.2 : Int) - r.1; fp64Round (decide (n < 0)) n.natAbs r.2
  let o := fp64Rat (sub b64)
  let d := fp64Rat (sub (powFP64 b64 t))
  let inv := fp64Rat (fp64Round (decide (d.1 < 0)) d.2 d.1.natAbs)
  (fofRat o.1 o.2, if d.1 = 0 then fpSigned false 0x7F800000 else fofRat inv.1 inv.2)

/-- Read the parameter block for step `t`. -/
def State.optCfg (s : State) (p : Plan) (gen : Word) : OptCfg :=
  let m := s.memBytes (p.d roParam).addr 64
  let w (o : Nat) : Word := BitVec.ofNat 32 (fld m o 4)
  let t := if p.has roGenrec then gen.toNat + 1 else fld m 36 4
  let a := biasCorr (w 16) t
  let b := biasCorr (w 20) t
  { adamw := fld m 0 1 == 1, msr := bitOf (fld m 1 1) 0, ssr := bitOf (fld m 1 1) 1, lr := w 8, mu := w 12, b1 := w 16, b2 := w 20
    eps := w 24, wd := w 28, gscale := w 32, ob1 := a.1, c1 := a.2, ob2 := b.1, c2 := b.2 }

/-- The real value of an element as FP32 (R127, R173): the exact product s × q is rounded once (log 101). -/
def State.realFp (s : State) (t : Desc) (i0 i1 i2 i3 : Nat) : Word :=
  if t.code = cBf16 then bfWide (BitVec.ofNat 16 (s.rawAt t (t.idx i0 i1 i2 i3)))
  else
    let sc := s.inScale t i0 i1 i2 i3
    let g := fpRat sc.1
    fofRat (decodeCode t.code (s.rawAt t (t.idx i0 i1 i2 i3)) * sc.2 * g.1) g.2

/-- New momentum, second moment and master of one element. -/
def optStep (c : OptCfg) (g m r w : Word) : Word × Word × Word :=
  let g := fmul c.gscale g
  if c.adamw then
    let m := fadd (fmul c.b1 m) (fmul c.ob1 g)
    let v := fadd (fmul c.b2 (fmul r r)) (fmul c.ob2 (fmul g g))
    let w' := fsub w (fmul c.lr (fadd (fdiv (fmul m c.c1) (fadd (fsqrt (fmul v c.c2)) c.eps)) (fmul c.wd w)))
    (m, fsqrt v, w')
  else
    let m := fadd (fmul c.mu m) g
    (m, r, fsub w (fmul c.lr (fadd m (fmul c.wd w))))

/-- The step on the element at given coordinates. -/
def State.optAt (s : State) (p : Plan) (c : OptCfg) (i0 i1 i2 i3 : Nat) : Word × Word × Word :=
  let rd (r : Nat) : Word := s.realFp (p.d r) i0 i1 i2 i3
  optStep c (rd roGrad) (rd roMom) (if p.has roSmom then rd roSmom else 0) (rd roMaster)

/-! ## Storing (R174, R175) -/

/-- Every point of a tensor. -/
def Desc.points (t : Desc) : List (Nat × Nat × Nat × Nat) :=
  ((List.range (t.ext 3)).map fun d => ((List.range (t.ext 2)).map fun c => ((List.range (t.ext 1)).map fun b =>
    (List.range (t.ext 0)).map fun a => (a, b, c, d)).flatten).flatten).flatten

/-- The derivation for a block of a tensor under a function from points to real values. -/
def State.blockDerived (s : State) (t : Desc) (f : Nat → Nat → Nat → Nat → Word) (b : Nat) : Derived :=
  let vals := (t.points.filter fun q => t.blockOf (fun d => if d = 0 then q.1 else if d = 1 then q.2.1 else if d = 2 then q.2.2.1 else q.2.2.2) == b).map
    fun q => f q.1 q.2.1 q.2.2.1 q.2.2.2
  match vals with
  | [] => { code := 1, zp := 0 }
  | v :: l => deriveState (codeUnsigned t.code) (codeBits t.code) (s.stG t.stab) (l.foldl fmax v) (l.foldl fmin v)

/-- The block code that derivation gives. -/
def State.blockCode (s : State) (t : Desc) (f : Nat → Nat → Nat → Nat → Word) (b : Nat) : Nat := (s.blockDerived t f b).code

/-- Quantise a real value under a block code, by RNE or with a draw. A value that is not a number has no stated code. -/
def quantise (code : Nat) (g : Word) (blk : Nat) (x : Word) (sr : Bool) (k : Nat) : Nat :=
  if fpNan x then Config.valueOf 10 0 x.toNat % 2 ^ codeBits code
  else if fpInf x then encodeCode code (if fpNeg x then codeMin code else codeMax code)
  else
    let q := fpRat x
    let s := fpRat g
    let d := scaleVal blk * s.1.natAbs * q.2
    let v := if sr then (rneInt (q.1 * s.2 * q16) d + (Config.freeNat k % 65536 : Nat)) / q16 else rneInt (q.1 * s.2) d
    (clipCode code v).1

/-- The new master as stored, raw, and the real value it then stands for. -/
def State.newMaster (s : State) (p : Plan) (c : OptCfg) (draws : Nat) (i0 i1 i2 i3 : Nat) : Nat × Word :=
  let t := p.d roMaster
  let w := (s.optAt p c i0 i1 i2 i3).2.2
  let k := draws + 3 * t.idx i0 i1 i2 i3
  if t.code = cBf16 then
    let h := if c.msr ∧ !fpInf w ∧ !fpNan w then bfSr w (Config.freeNat k % 65536) else bfRne w
    (h.toNat, bfWide h)
  else
    let ix (d : Nat) : Nat := if d = 0 then i0 else if d = 1 then i1 else if d = 2 then i2 else i3
    let blk := s.blockCode t (fun a b e f => (s.optAt p c a b e f).2.2) (t.blockOf ix)
    let raw := quantise t.code (s.stG t.stab) blk w c.msr k
    let g := fpRat (s.stG t.stab)
    (raw, fofRat (decodeCode t.code raw * scaleVal blk * g.1) g.2)

/-- The stored code of a state element or of a working weight: role, coordinates. -/
def State.optRaw (s : State) (p : Plan) (c : OptCfg) (draws role i0 i1 i2 i3 : Nat) : Nat :=
  let t := p.d role
  let ix (d : Nat) : Nat := if d = 0 then i0 else if d = 1 then i1 else if d = 2 then i2 else i3
  let k := draws + 3 * t.idx i0 i1 i2 i3
  if role = roMaster then (s.newMaster p c draws i0 i1 i2 i3).1
  else if role = roWork then
    let f (a b e d : Nat) : Word := (s.newMaster p c draws a b e d).2
    quantise t.code (s.stG t.stab) (s.blockCode t f (t.blockOf ix)) (f i0 i1 i2 i3) false k
  else
    let f (a b e d : Nat) : Word := let r := s.optAt p c a b e d; if role = roMom then r.1 else r.2.1
    quantise t.code (s.stG t.stab) (s.blockCode t f (t.blockOf ix)) (f i0 i1 i2 i3) c.ssr (k + if role = roMom then 1 else 2)

/-- Roles an OPTIM stores. -/
def Plan.optRoles (p : Plan) : List Nat := [roMom, roSmom, roMaster, roWork].filter p.has

/-- What an OPTIM derives for the table of a role, block by block (R174, R175). -/
def State.optDerived (s : State) (p : Plan) (c : OptCfg) (draws role : Nat) : List Derived :=
  let t := p.d role
  let f (a b e d : Nat) : Word :=
    if role = roMaster then (s.optAt p c a b e d).2.2
    else if role = roWork then (s.newMaster p c draws a b e d).2
    else if role = roMom then (s.optAt p c a b e d).1 else (s.optAt p c a b e d).2.1
  (List.range t.nb).map fun b => s.blockDerived t f b

/-- Elements an OPTIM tile writes: role, element index, stored code. -/
def State.optTile (s : State) (p : Plan) (c : OptCfg) (draws : Nat) (box : List (Nat × Nat)) : List (Nat × Nat × Nat) :=
  overBox box (fun (o : List (Nat × Nat × Nat)) i0 i1 i2 i3 =>
    (p.optRoles.map fun r => (r, (p.d r).idx i0 i1 i2 i3, s.optRaw p c draws r i0 i1 i2 i3)) ++ o) []

end Sys2Proof.Machine
end

