-- ==== Sys2Proof/Machine/Xfer.lean ====
section
/-! DEFINITION. Transfer programs: what a tile reads, the descriptors the Reeve builds for a command, the rows a descriptor moves for a
tile, and the requests of a row (R231, R294-R296, R326, R382-R388). -/

namespace Sys2Proof.Machine

/-! ## What a tile reads (R231, R277, R296, R326) -/

/-- The tile's rectangle along each stored dimension of a tensor it reads or writes: origin, and extent before clipping. The reduction of a
GEMM is read over whole TILEs (R231). -/
def Plan.tileRect (p : Plan) (box : List (Nat × Nat)) (t : Desc) : List (Nat × Nat) :=
  let c := p.cmd
  let o (d : Nat) : Nat := (boxAt box d).1
  let r := t.role
  let org : List Nat :=
    if c.op == opGemm then
      (if r = roX || r = roOx then (if t.trans then [o dM] else [0, o dM])
       else if r = roW || r = roOw then (if t.trans then [o dN] else [0, o dN])
       else if r = roBias then [o dN] else [o dN, o dM])
    else if c.op == opConv then
      (if r = roX then [0, 0, if p.geo.s2d = 1 then o dG * p.w.ext 2 else 0, o dB]
       else if r = roW then [0, 0, 0, o dG * (p.w.ext 3 / p.geo.g) + o dN]
       else if r = roWwino then [0, 0, o dG * (p.w.ext 3 / p.geo.g) + o dN]
       else if r = roOw then [0, o dG * (p.w.ext 3 / p.geo.g) + o dN]
       else if r = roBias then [o dG * (p.w.ext 3 / p.geo.g) + o dN] else [])
    else if c.op == opDwconv || c.op == opPool || c.op == opBoxpool then
      (if r = roBias then [o dC] else [0, 0, o dC, if r = roX && c.op != opBoxpool then o dB else 0])
    else if c.copyIs subTranspose && r = roY then [o dH, o dW, o dC, o dB]
    else (List.range 4).map fun d => if (c.bcast d && r = roX2) || (c.axis d && r = roY) then 0 else o (ewDim d)
  let redDim : Nat := if t.trans then 1 else 0
  (List.range 4).map fun d => ((org[d]?).getD 0,
    if c.op == opGemm && (r == roX || r == roW) && d == redDim then p.readExt dK else (((p.tileDims t)[d]?).getD (1, 0)).1)

/-- Runs of consecutive numbers in a list, as start and length. -/
def runsOf (l : List Nat) : List (Nat × Nat) :=
  (l.foldl (fun (acc : List (Nat × Nat)) x =>
    match acc with
    | (a, n) :: rest => if x = a + n then (a, n + 1) :: rest else (x, 1) :: acc
    | [] => [(x, 1)]) []).reverse

/-- The bytes of `n` elements from element `e`. -/
def elemBytes (bits e n : Nat) : Nat × Nat := (e * bits / 8, (e * bits + n * bits - 1) / 8 - e * bits / 8 + 1)

/-- The rows and pairs of columns that the samples of a box touch (R324). -/
def Plan.boxTouches (p : Plan) (b : BoxRec) : List (Nat × Nat) × List (Nat × Nat) :=
  let n := p.cmd.im 42
  let axis (lo hi : Int) (bins ext : Nat) : List (Nat × Nat) :=
    ((List.range bins).map fun q => (List.range n).filterMap fun i => (sampleAt (samplePos lo hi bins n q i) ext).map fun s => (s.1, s.2.1)).flatten.eraseDups
  (axis b.y0 b.y1 (p.cmd.im 40) p.geo.ih, axis b.x0 b.x1 (p.cmd.im 41) p.geo.iw)

/-- Runs of the dense image that a tile reads of a tensor, as byte offset and length. Image commands read only the rows and columns
that their unmasked positions address (R296), BOXPOOL what its samples touch (R326). -/
def State.loadRuns (s : State) (p : Plan) (tile : Nat) (t : Desc) : List (Nat × Nat) :=
  let box := p.box tile
  let bits := codeBits t.code
  match p.lin with
  | some n => [(tile * n, min n (t.len - tile * n))]
  | none =>
    let rect := p.tileRect box t
    let span (d : Nat) : List Nat :=
      let r := (rect[d]?).getD (0, 1)
      (List.range (min r.2 (t.ext d - r.1))).map fun i => r.1 + i
    let rows (cols : List (Nat × Nat)) (r1 r2 r3 : List Nat) : List (Nat × Nat) :=
      (r3.map fun i3 => (r2.map fun i2 => (r1.map fun i1 => cols.map fun c => elemBytes bits (t.idx c.1 i1 i2 i3) c.2).flatten).flatten).flatten
    if t.role == roX && (p.cmd.op == opConv || p.cmd.op == opDwconv || p.cmd.op == opPool) then
      let f := p.geo.s2d
      let wide (l : List Nat) : List Nat := (l.map fun r => (List.range f).map fun j => r * f + j).flatten
      let cols := wide ((List.range p.geo.iw).filter fun q => (p.colsFetched box).contains q)
      rows (runsOf cols) (wide ((List.range p.geo.ih).filter fun r => (p.rowsFetched box).contains r)) (span 2) (span 3)
    else if t.role == roX && p.cmd.op == opBoxpool then
      ((List.range (boxAt box dM).2).map fun l =>
        let b := s.boxRec (p.d roBoxes).addr ((boxAt box dM).1 + l)
        if p.boxEmpty b then []
        else
          let q := p.boxTouches b
          let ys := (q.1.map fun y => [y.1, y.2]).flatten.eraseDups
          rows (q.2.map fun x => (x.1, x.2 - x.1 + 1)) ys (span 2) [b.bidx]).flatten.eraseDups
    else
      let c := span 0
      if c.isEmpty then [] else rows [((c.head?).getD 0, c.length)] (span 1) (span 2) (span 3)

/-! ## Scales and objects of a tile (R277, R337) -/

/-- The least and the greatest value of a function of stored coordinates over a rectangle, where it rises along every dimension. -/
def overRect (rect : List (Nat × Nat)) (t : Desc) (f : (Nat → Nat) → Nat) : Option (Nat × Nat) :=
  let at_ (d : Nat) : Nat × Nat := let r := (rect[d]?).getD (0, 1); (r.1, min r.2 (t.ext d - r.1))
  if (List.range 4).any fun d => (at_ d).2 == 0 then none
  else some (f fun d => (at_ d).1, f fun d => (at_ d).1 + (at_ d).2 - 1)

/-- The objects that tiles read: the activation table, LUT's table, the outlier list, boxes. -/
def Plan.objects (p : Plan) : List Desc :=
  p.ds.filter fun t => [roActtab, roLtab, roOlist, roBoxes].contains t.role

/-- Whole arrays of scale codes and zero points, each apart, and objects, as address and length. -/
def State.auxArrays (s : State) (p : Plan) : List (Nat × Nat) :=
  (((p.ds.filter p.scaled).map fun t => [(t.stab + 64, t.nb), (t.stab + stZoff t.nb, ceilDiv (t.nz * codeBits t.code) 8)]).flatten ++
    p.objects.map fun (t : Desc) => (t.addr, s.objectLen p t)).filter fun a => decide (a.2 ≠ 0)

/-- The parts of those arrays that a tile reads. -/
def State.auxRuns (s : State) (p : Plan) (tile : Nat) : List (Nat × Nat) :=
  let box := p.box tile
  (((p.ds.filter p.scaled).map fun t =>
      let rect := p.tileRect box t
      let codes := match overRect rect t t.blockOf with
        | some r => [(t.stab + 64 + r.1, r.2 - r.1 + 1)]
        | none => []
      let zps := match overRect rect t t.zpOf with
        | some r => if t.nz = 0 then [] else
            let b := elemBytes (codeBits t.code) r.1 (r.2 - r.1 + 1)
            [(t.stab + stZoff t.nb + b.1, b.2)]
        | none => []
      codes ++ zps).flatten ++
    p.objects.map fun (t : Desc) => if t.role == roBoxes then (t.addr + 32 * (boxAt box dM).1, 32 * (boxAt box dM).2) else (t.addr, s.objectLen p t)).filter
    fun a => decide (a.2 ≠ 0)

/-! ## The program of a command (R382, R385)

The spec fixes the format of a descriptor and what it moves, and not which descriptors the Reeve writes for a command; this layout is
the model's (log 18). -/

/-- Descriptors for the tile rectangle of a tensor: one for each index of D3 that the planes of D2 do not reach in one pitch, and one for
each class of rows and planes whose pitch is a whole number of bytes. -/
def xfersOf (op : XOp) (cls : BitVec 2) (masked : Bool) (osel : BitVec 3) (wepoch : BitVec 16) (base bits : Nat) (dims : List Nat)
    (tile : List (Nat × Nat)) : List Xfer :=
  let ext (d : Nat) : Nat := (dims[d]?).getD 1
  let n (d : Nat) : Nat := max 1 (((tile[d]?).getD (0, 1)).2)
  let row := ext 0 * bits
  let plane := row * ext 1
  let merged : Bool := decide (n 2 = ext 2)
  let planes := if merged then n 2 * n 3 else n 2
  let k1 := 8 / Nat.gcd 8 row
  let k2 := 8 / Nat.gcd 8 plane
  let len := ceilDiv (n 0 * bits) 8 + if bits < 8 then 2 else 0
  let at_ (i1 i2 i3 : Nat) : Xfer :=
    { op := op, cls := cls, masked := masked, osel := osel
      rows := BitVec.ofNat 16 (min 65535 (ceilDiv (n 1 - i1) k1)), planes := BitVec.ofNat 16 (min 65535 (ceilDiv (planes - i2) k2))
      base := BitVec.ofNat 48 (base + (i1 * row + i2 * plane + i3 * plane * ext 2) / 8)
      bpitch := BitVec.ofNat 16 (ceilDiv (len + 63) 64), len := BitVec.ofNat 24 len
      pitch := BitVec.ofNat 40 (k1 * row / 8), ppitch := BitVec.ofNat 40 (k2 * plane / 8), wepoch := wepoch }
  ((List.range (if merged then 1 else n 3)).map fun i3 => ((List.range (min k2 planes)).map fun i2 =>
    (List.range (min k1 (n 1))).map fun i1 => at_ i1 i2 i3).flatten).flatten

/-- The origin offset of a tile in a tensor, in bytes (R387). -/
def Plan.origin (p : Plan) (tile : Nat) (t : Desc) : Nat :=
  match p.lin with
  | some n => tile * n
  | none =>
    let r := p.tileRect (p.box tile) t
    let o (d : Nat) : Nat := ((r[d]?).getD (0, 1)).1
    t.idx (o 0) (o 1) (o 2) (o 3) * codeBits t.code / 8

/-- The tensors a tile loads, in the order of the descriptor array. The Winograd form reads WWINO and the direct form W (R308); a program
serves both forms. -/
def Plan.loads (p : Plan) : List Desc := p.ds.filter fun t => p.cmd.readsRole t.role

/-- The tensors a tile writes, each with the window it lies in, if it lies in one (R353). -/
def Plan.stores (p : Plan) : List Desc :=
  p.ds.filter fun t => p.cmd.writesRole t.role && !(t.role == roYalt)

/-- Tile extents of a tensor for its descriptors. Image inputs span whole rows and columns, from which the Plough takes what R296 fetches. -/
def Plan.xferTile (p : Plan) (t : Desc) : List (Nat × Nat) :=
  match p.lin with
  | some n => [(0, n)]
  | none => p.tileRect (p.box 0) t

/-- Mark the last descriptor of a phase (R385). -/
def endPhase (l : List Xfer) : List Xfer :=
  match l.reverse with
  | [] => []
  | x :: r => ({ x with phaseEnd := true } :: r).reverse

/-- Lay the descriptors' rows one after another in the tile's footprint; BOFF has 23 bits. -/
def layOut : Nat → List Xfer → List Xfer
  | _, [] => []
  | o, x :: l => { x with boff := BitVec.ofNat 24 (o % 2 ^ 23) } ::
      layOut (o + x.rows.toNat * x.planes.toNat * x.bpitch.toNat * 64) l

/-- The descriptor of an array that is read whole, in rows of 64 KiB; the tile's part is taken from it. OFF[7] is 0. -/
def auxXfer (a : Nat × Nat) : Xfer :=
  { op := .read, cls := 1, osel := 7, rows := BitVec.ofNat 16 (ceilDiv a.2 65536), base := BitVec.ofNat 48 a.1, bpitch := 1025
    len := BitVec.ofNat 24 (min a.2 65536), pitch := 65536 }

/-- Where an output begins: OPTIM's new values lie in the shadow slot or at OUTOFF (R177, R178). -/
def Plan.outBase (p : Plan) (t : Desc) : Nat :=
  if p.cmd.op == opOptim && !(t.role == roWork && !p.has roGenrec) then (((t.addr : Int) + p.delta) % (2 ^ 48 : Nat)).toNat
  else t.addr

/-- The transfer program of a command: the descriptors of LOAD, then those of DRAIN. OSEL numbers the tensors in order, and is 7 for scale
arrays and objects. -/
def State.program (s : State) (p : Plan) (aper : List (Nat × Nat × Nat × BitVec 16)) : List Xfer × List Xfer :=
  let dims (t : Desc) : List Nat := if p.lin.isSome then [t.len] else [t.ext 0, t.ext 1, t.ext 2, t.ext 3]
  let bits (t : Desc) : Nat := if p.lin.isSome then 8 else codeBits t.code
  let num (l : List Desc) : List (Nat × Desc) := (List.range l.length).zip l
  let ld := (num p.loads).map fun (i, t) =>
    xfersOf (if t.zifer then .expand else .read) 0 false (BitVec.ofNat 3 i) 0 t.addr (bits t) (dims t) (p.xferTile t)
  let st := (num p.stores).map fun (i, t) =>
    match aper.find? fun a => a.1 == p.outBase t with
    | some (_, _, _, wep) => xfersOf .winwrite 0 true (BitVec.ofNat 3 i) wep (p.outBase t) (bits t) (dims t) (p.xferTile t)
    | none => xfersOf .write 0 true (BitVec.ofNat 3 i) 0 (p.outBase t) (bits t) (dims t) (p.xferTile t)
  let ld := layOut 0 (endPhase (ld.flatten ++ (s.auxArrays p).map auxXfer))
  let used := ld.foldl (fun a x => a + x.rows.toNat * x.planes.toNat * x.bpitch.toNat * 64) 0
  (ld, layOut used (endPhase st.flatten))

/-- Descriptors of a program (R383). -/
def State.progLen (s : State) (p : Plan) : Nat := let q := s.program p []; q.1.length + q.2.length

/-! ## Moving rows (R387, R388) -/

/-- The rows of a descriptor for an origin offset, as fabric address, footprint offset and length, plane by plane and row by row. -/
def Xfer.moves (x : Xfer) (off : Nat) : List (Nat × Nat × Nat) :=
  ((List.range x.planes.toNat).map fun (q : Nat) => (List.range x.rows.toNat).map fun (r : Nat) =>
    let fa : Nat := (((x.base.toNat + off : Nat) + (q : Int) * x.ppitch.toInt + (r : Int) * x.pitch.toInt) % (2 ^ 48 : Nat)).toNat
    (fa, x.boff.toNat + (q * x.rows.toNat + r) * x.bpitch.toNat * 64 + fa % 64, x.len.toNat)).flatten

/-- Split a run of bytes at the boundaries of 256-byte blocks (R388); the fuel is its length. -/
def splitBlocks : Nat → Nat → Nat → List (Nat × Nat)
  | 0, _, _ => []
  | f + 1, a, n =>
    if n = 0 then [] else
    let k := min n (256 - a % 256)
    (a, k) :: splitBlocks f (a + k) (n - k)

/-- The part of a row that a tile reads: where the row meets the runs it needs. -/
def clipRow (fa n : Nat) (runs : List (Nat × Nat)) : List (Nat × Nat) :=
  runs.filterMap fun r =>
    let lo := max fa r.1
    let hi := min (fa + n) (r.1 + r.2)
    if lo < hi then some (lo, hi - lo) else none

/-- Where the model keeps the bytes of an expanded tensor in a tile's buffers: by role and image offset. -/
def bufAddr (role x : Nat) : Nat := bufBase * role + x

/-- The requests of a tile's LOAD, in descriptor order: those of READ rows, and the EXPAND rows the Mill delivers. -/
def State.loadReqs (s : State) (p : Plan) (prog : List Xfer) (tile : Nat) : List Req × List Req :=
  let tensors := p.loads
  let aux := s.auxRuns p tile
  let both : List (List Req × List Req) := ((List.range prog.length).zip prog).map fun (q : Nat × Xfer) =>
    let i := q.1
    let x := q.2
    match tensors[x.osel.toNat]? with
    | none =>
      if x.op == .read && x.osel == 7 then
        (((x.moves 0).map fun m => (clipRow m.1 m.2.2 aux).map fun c => (splitBlocks c.2 c.1 c.2).map fun b =>
          ({ fa := b.1, len := b.2, fo := m.2.1 + (b.1 - m.1), desc := i, cls := x.cls } : Req)).flatten.flatten, [])
      else ([], [])
    | some t =>
      let runs := (s.loadRuns p tile t).map fun r => (t.addr + r.1, r.2)
      let rows := ((x.moves (p.origin tile t)).map fun m => (clipRow m.1 m.2.2 runs).map fun c => (c.1, c.2, m.2.1 + (c.1 - m.1))).flatten
      if x.op == .expand then
        ([], rows.map fun r => ({ fa := bufAddr t.role (r.1 - t.addr), len := r.2.1, fo := r.2.2, desc := i } : Req))
      else if x.op == .read then
        ((rows.map fun r => (splitBlocks r.2.1 r.1 r.2.1).map fun c =>
          ({ fa := c.1, len := c.2, fo := r.2.2 + (c.1 - r.1), desc := i, cls := x.cls } : Req)).flatten, [])
      else ([], [])
  ((both.map fun b => b.1).flatten, (both.map fun b => b.2).flatten)

/-- Bytes that a tile's buffers hold, over the memory they came from: what COMPUTE and DRAIN read of the tile's inputs (R277). -/
def State.view (s : State) (n : Nat) : State :=
  { s with dram := (s.eng n).buf.foldl (fun m b => Tab.set 0 m b.1 (b.2.getD 0)) s.dram }

/-- The plan as the tile's buffers hold its tensors: expanded ones are dense there (R428). -/
def Plan.buffered (p : Plan) : Plan :=
  { p with ds := p.ds.map fun t =>
      if t.zifer && p.cmd.readsRole t.role then { t with zifer := false, addr := bufAddr t.role 0 } else t }

end Sys2Proof.Machine
end

