-- ==== Sys2Proof/Machine/Compute.lean ====
section
/-! DEFINITION. COMPUTE of a tile on its engine: the Field's passes over the tile's buffers, the pooling paths, the checks of the Stook, and
the counters (R79-R81, R95, R116-R124, R277, R319, R326). -/

namespace Sys2Proof.Machine

/-- The tile of an engine in a phase. -/
def Engine.inPhase (e : Engine) (p : TilePhase) : Option Claim := e.claims.find? fun c => c.phase == p

/-- The command of a claim is still the one its slot holds. -/
def State.liveClaim (s : State) (c : Claim) : Bool := (s.slot c.slot).used && !(s.slot c.slot).stopping

/-- The `i`-th free value from here on (log 1). -/
def State.freeAt (s : State) (i : Nat) : Nat := Config.freeNat (s.fresh + i)

/-- The engine's array as a tile finds it, with what an armed injection will still affect (R595). -/
def State.fieldRun (s : State) (n : Nat) : FieldRun :=
  let e := s.eng n
  { fg := e.fg, bg := e.bg, stook := e.stook, parInj := s.injHits 4 n 255, resInj := s.injHits 7 n 255 }

/-- A report of the checkers of the array (R95, R118): it carries the column. -/
def cellReport (n : Nat) (c : Claim) (f : CellFault) : Report :=
  { source := if f.residue then 0x00 else 0x01, inst := n, detail := BitVec.ofNat 32 f.column, slot := some (Fin.ofNat 64 c.slot)
    tile := c.tile, epoch := c.epoch, inj := true }

/-- Take over what a run has left: registers, Stook, used injections, saturations (STKSAT) and Smithy vectors (SMUPD), and a report for
each fault found (R121). A residue fault sets the hold (R119). -/
def State.takeRun (s : State) (n : Nat) (c : Claim) (r : FieldRun) : State :=
  let r0 := s.fieldRun n
  let s := s.modEng n fun e => { e with fg := r.fg, bg := r.bg, stook := r.stook, hold := e.hold || r.faults.any fun f => f.residue }
  let s := (s.useInj ((r0.parInj - r.parInj) + (r0.resInj - r.resInj))).bump 0 n 4 r.sats |>.bump 0 n 5 r.smupd
  forEach r.faults (fun f s => s.raise (cellReport n c f)) s

/-- Empty cycles of the first `k` passes: those of R80 within each pass, and those of R79 at each boundary, where the load of the next pass
outlasts the stream. How long ports wait for Barn banks is open (R331). -/
def State.stalls (s : State) (ms lw k : Nat) : Nat × Nat :=
  (List.range k).foldl (fun (a : Nat × Nat) b =>
    (a.1 + s.freeAt (2 * b), a.2 + if b + 1 < k then (lw + s.freeAt (2 * b + 1)) - (ms + s.freeAt (2 * b)) else 0)) (0, 0)

/-- COMPUTE of a Field tile up to a number of entering cycles: its counters FACTIVE, FWSTALL, FASTALL and FPASS, its cycles (TCOMP), and the
array. -/
def State.fieldTile (s : State) (n : Nat) (c : Claim) (p : Plan) (limit : Nat) : State :=
  let box := p.box c.tile
  let wino := p.wino && !c.direct
  let t := p.timing box c.direct
  let cycles := min limit (t.1 * t.2.1)
  let entered := if t.2.1 = 0 then t.1 else ceilDiv cycles t.2.1
  let st := s.stalls t.2.1 t.2.2.1 entered
  let first := s.freeAt (2 * entered)
  let r := (s.view n).runPasses p.buffered box wino cycles (s.fieldRun n)
  let s := s.used (2 * entered + 1)
  let s := ((s.bump 0 n 0 cycles).bump 0 n 1 st.2).bump 0 n 2 st.1
  let s := (s.bump 0 n 3 (if t.2.1 = 0 then entered else cycles / t.2.1)).bump 0 n 12 (t.2.2.1 + first + cycles + st.1 + st.2 + 14)
  s.takeRun n c r

/-- The Stook of a POOL or BOXPOOL tile: rows hold positions or bins, columns channels (R319, R326). -/
def State.poolRun (s : State) (p : Plan) (box : List (Nat × Nat)) (r : FieldRun) : FieldRun :=
  let cols := List.range (boxAt box dC).2
  let put (r : FieldRun) (m n : Nat) (v : Int) : FieldRun := r.update m n (some v) 0 0 0 0
  if p.cmd.op == opPool then
    (List.range p.mt).foldl (fun r m =>
      let q := p.position box m
      if p.rowLive box m then cols.foldl (fun r n =>
        let w := s.poolWindow p q.1 q.2.1 q.2.2 ((boxAt box dC).1 + n)
        put r m n (if bitOf (p.cmd.im 47) 0 then w.foldl (fun a e => a + e.1) 0
          else match w with
            | [] => 0
            | e :: l => (l.foldl (fun (a : Int) x => max a (decodeCode p.x.code x.2)) (decodeCode p.x.code e.2)))) r
      else r) r
  else
    let bins := p.cmd.im 40 * p.cmd.im 41
    (List.range ((boxAt box dM).2 * bins)).foldl (fun r m =>
      let b := s.boxRec (p.d roBoxes).addr ((boxAt box dM).1 + m / bins)
      cols.foldl (fun r n =>
        let v := if p.boxEmpty b then [] else s.binSamples p b ((boxAt box dC).1 + n) (m % bins / p.cmd.im 41) (m % bins % p.cmd.im 41)
        put r m n (if p.cmd.im 43 = 0 then (match v with
          | [] => 0
          | e :: l => l.foldl max e) else v.foldl (fun a x => a + x) 0)) r) r

/-- COMPUTE of a tile whose command is live, from its buffers. -/
def State.computeTile (s : State) (n : Nat) (c : Claim) (p : Plan) : State :=
  let box := p.box c.tile
  let s := s.bump 0 n 20 (p.padCount box c.direct)
  if fieldOp p.cmd.op then
    let t := p.timing box c.direct
    s.fieldTile n c p (t.1 * t.2.1)
  else if p.cmd.op == opPool then
    (s.bump 0 n 12 (p.mt * p.geo.kh * p.geo.kw + 14)).takeRun n c ((s.view n).poolRun p.buffered box (s.fieldRun n))
  else if p.cmd.op == opBoxpool then
    (s.bump 0 n 12 (p.mt * p.cmd.im 42 ^ 2 + 14)).takeRun n c ((s.view n).poolRun p.buffered box (s.fieldRun n))
  else s.bumpFree 0 n 12

/-- What an engine counts for a tile of a command that has been withdrawn, before it learns of it, is open: the Field counters, the cycles
in COMPUTE, and the Sieve counters. -/
def State.workUnknown (s : State) (n : Nat) (ctrs : List Nat) : State := forEach ctrs (fun k s => s.bumpFree 0 n k) s

/-- A fence that takes effect in COMPUTE stops the Field at a cycle that is open: entries keep the values written so far (R124). -/
def State.cutCompute (s : State) (n : Nat) : State :=
  match (s.eng n).inPhase .compute with
  | none => s
  | some c =>
    if c.computed then s
    else if !s.liveClaim c then s.workUnknown n [0, 1, 2, 3, 4, 5, 12]
    else
      let p := s.planOf (s.slot c.slot).entry.val
      if fieldOp p.cmd.op then
        let t := p.timing (p.box c.tile) c.direct
        s.used.fieldTile n c p (s.free % (t.1 * t.2.1 + 1))
      else s.bumpFree 0 n 12

/-- The Sieve reads rows of the Stook in DRAIN, 512 entries each, masked ones too (R93): parity and, but for saturated entries, RES are
checked (R95, R116, R117). -/
def State.readRows (s : State) (n : Nat) (c : Claim) (rows : Nat) : State :=
  let faults := ((List.range rows).map fun m => ((List.range 512).map fun k =>
    let e := Tab.get {} (s.eng n).stook (512 * m + k)
    (if e.parOk then [] else [(⟨false, k⟩ : CellFault)]) ++ if e.resOk then [] else [(⟨true, k⟩ : CellFault)]).flatten).flatten
  let s := s.modEng n fun e => { e with hold := e.hold || faults.any fun f => f.residue }
  forEach faults (fun f s => s.raise (cellReport n c f)) s

end Sys2Proof.Machine
end

