-- ==== Sys2Proof/Machine/Plough.lean ====
section
/-! DEFINITION. The Plough: Barn bytes and checks, the requests of a tile's LOAD, claims, and the start of the next tile (R256-R262, R277,
R328, R339-R347, R384, R388-R393). -/

namespace Sys2Proof.Machine

/-! ## Barn bytes -/

/-- What is left of an unknown range when `n` bytes at `o` are written. -/
def cutRange (o n : Nat) (r : Nat × Nat × Nat) : List (Nat × Nat × Nat) :=
  let (a, l, k) := r
  (if a < o then [(a, min l (o - a), k)] else []) ++
    (if o + n < a + l then [(max a (o + n), a + l - max a (o + n), k + (max a (o + n) - a))] else [])

/-- A byte of a Barn: one that a tile's buffers have covered is a free value (log 1), one never written reads zero (R341). -/
def Barn.byte (b : Barn) (o : Nat) : Byte :=
  match b.unknown.find? fun r => decide (r.1 ≤ o) && decide (o < r.1 + r.2.1) with
  | some r => Config.freeByte (r.2.2 + (o - r.1))
  | none => Tab.get 0 b.bytes o

/-- Write bytes; the 64-bit words written whole take valid check bits. -/
def Barn.put (b : Barn) (o : Nat) (bs : List Byte) : Barn :=
  let n := bs.length
  { b with
    bytes := Mem.setBytes 0 b.bytes o bs
    unknown := (b.unknown.map (cutRange o n)).flatten
    bad := b.bad.filter fun w => !(decide (o ≤ 8 * w.1) && decide (8 * w.1 + 8 ≤ o + n)) }

/-- The parts of the Barn outside a list of ranges, as start and length. -/
def outside (l : List (Nat × Nat)) : List (Nat × Nat) :=
  l.foldl (fun acc w => (acc.map fun r => (cutRange w.1 w.2 (r.1, r.2, 0)).map fun x => (x.1, x.2.1)).flatten) [(0, barnSize)]

/-- The ranges of the windows of an engine that are open or closing. -/
def State.windowRanges (s : State) (n : Nat) : List (Nat × Nat) :=
  (List.range 8).filterMap fun w =>
    let x := s.window n w
    if x.st == .closed then none else some (x.off.toNat, x.len.toNat)

/-- The ranges of the open ones alone. -/
def State.openRanges (s : State) (n : Nat) : List (Nat × Nat) :=
  (List.range 8).filterMap fun w =>
    let x := s.window n w
    if x.st == .opn then some (x.off.toNat, x.len.toNat) else none

/-- A byte lies outside a list of ranges. -/
def outOf (l : List (Nat × Nat)) (o : Nat) : Bool := l.all fun w => decide (o < w.1) || decide (w.1 + w.2 ≤ o)

/-- Word numbers from here on in `Barn.bad` are words of the tile's buffers, whose places are the Plough's own (R339). -/
def tileWord : Nat := 786432

/-- The tile's buffers take Barn lines outside the windows (R339): what those lines hold is left free. -/
def State.clobberBarn (s : State) (n : Nat) : State :=
  let ws := s.windowRanges n
  let parts := outside ws
  let b := (s.eng n).barn
  let k := s.fresh
  (s.modEng n fun e => { e with barn :=
    { bytes := b.bytes.filter fun x => !(outOf ws x.1)
      unknown := (parts.map fun r => (r.1, r.2, k + r.1)) ++ b.unknown.filter fun r => !(outOf ws r.1)
      bad := b.bad.filter fun w => decide (w.1 < tileWord) && !(outOf ws (8 * w.1)) } }).used barnSize

/-- Zero every Barn line outside the open windows, with valid check bits (R343). -/
def State.zeroBarn (s : State) (n : Nat) : State :=
  let ws := s.openRanges n
  s.modEng n fun e => { e with barn :=
    { bytes := e.barn.bytes.filter fun x => !(outOf ws x.1)
      unknown := (outside ws).foldl (fun l r => (l.map (cutRange r.1 r.2)).flatten) e.barn.unknown
      bad := e.barn.bad.filter fun w => !(outOf ws (8 * w.1)) && decide (w.1 < tileWord) } }

/-- The bank of a Barn offset (R328). -/
def bankOf (o : Nat) : Nat := 16 * (o / 0x200000) + o % 0x200000 / 64 % 16

/-- The bank a word lies in: a word of the tile's buffers may lie in any (R339). -/
def State.bankOfWord (s : State) (w : Nat) : Nat := if w < tileWord then bankOf (8 * w) else s.free % 48

/-- Word numbers of a tile's output buffer among the words of its buffers. -/
def outWord : Nat := tileWord + 16777216

/-- A write issued for a tile is stale when its epoch is older than its slot's, or its command is gone (R33, R375). -/
def State.staleWrite (s : State) (slot : Nat) (epoch : BitVec 16) : Bool :=
  !(s.slot slot).used || epochOlder epoch (s.slot slot).epoch

/-- A request of a tile fails finally (R393): the tile issues nothing further, and the Bell is told. -/
def State.failTile (s : State) (n slot tile source : Nat) (detail : Nat := 0) (inj : Bool := false) : State :=
  let ep := (((s.eng n).claims.find? fun c => c.slot == slot && c.tile == tile).map fun c => c.epoch).getD 0
  let s := s.modEng n fun e => { e with claims := e.claims.map fun c =>
    if c.slot == slot && c.tile == tile then { c with failed := true } else c }
  s.raise { source := Fin.ofNat 128 source, inst := n, detail := BitVec.ofNat 32 detail, slot := some (Fin.ofNat 64 slot), tile := tile
            epoch := ep, inj := inj }

/-- Barn words of a range whose check bits are wrong: number and count of inverted bits. -/
def Barn.badIn (b : Barn) (o n : Nat) : List (Nat × Nat) :=
  b.bad.filter fun w => decide (o < 8 * w.1 + 8) && decide (8 * w.1 < o + n)

/-- Read a word with wrong check bits (R345, R346): one inverted bit is corrected and written back, two are uncorrectable. The report
carries the bank. The tile that holds the line has received poisoned data; data of its output buffer is read for a write, which fails
finally (R393). -/
def State.checkWord (s : State) (n : Nat) (w : Nat × Nat) : State :=
  let bank := s.bankOfWord w.1
  let s := s.used
  if w.2 = 1 then
    ((s.modEng n fun e => { e with barn := { e.barn with bad := Tab.set 0 e.barn.bad w.1 0 } }).bump 0 n 23 1).raise
      { source := 0x02, inst := n, detail := BitVec.ofNat 32 bank, inj := true }
  else
    match (s.eng n).claims.find? (fun c => decide (tileWord ≤ w.1) && c.phase != .claimed) with
    | some c =>
      let s := (s.modEng n fun e => { e with claims := e.claims.map fun k => if k == c then { k with poisoned := true } else k }).raise
        { source := 0x03, inst := n, detail := BitVec.ofNat 32 bank, slot := some (Fin.ofNat 64 c.slot), tile := c.tile, epoch := c.epoch, inj := true }
      if outWord ≤ w.1 then s.failTile n c.slot c.tile 0x0D 0 true else s
    | none => s.raise { source := 0x03, inst := n, detail := BitVec.ofNat 32 bank, inj := true }

/-- Read a list of words with wrong check bits. -/
def State.checkWords (s : State) (n : Nat) (ws : List (Nat × Nat)) : State := forEach ws (fun w s => s.checkWord n w) s

/-! ## Credits (R388-R390) -/

/-- Credits of an engine in use: one for each sector under way. -/
def Engine.creditsUsed (e : Engine) : Nat :=
  readSectors e.outs + e.millOut + e.discOut + writeSectors e.wouts + writeSectors (e.late.map fun w => w.1) + e.copyOut
/-- Credits of an engine that are free. -/
def Engine.credits (e : Engine) : Nat := 256 - e.creditsUsed

/-- Requests from the front of a list that a number of credits covers, and the rest. -/
def takeReads : Nat → List Req → List Req × List Req
  | _, [] => ([], [])
  | k, r :: l => if r.sectors ≤ k then let x := takeReads (k - r.sectors) l; (r :: x.1, x.2) else ([], r :: l)
def takeWrites : Nat → List WReq → List WReq × List WReq
  | _, [] => ([], [])
  | k, r :: l => if r.sectors ≤ k then let x := takeWrites (k - r.sectors) l; (r :: x.1, x.2) else ([], r :: l)

/-- Issue reads while credits are free (R389). How many compressed sectors the Mill has in flight for EXPAND rows is open (R432). -/
def State.issueReads (s : State) (n : Nat) : State :=
  let e := s.eng n
  let x := takeReads e.credits e.todo
  let s := s.setEng n { e with outs := e.outs ++ x.1, todo := x.2 }
  if e.rows.isEmpty then s
  else (s.modEng n fun e => { e with millOut := e.millOut + s.free % (e.credits + 1) }).used

/-- Words that LOAD or the Sieve writes into the Barn from a word number up, under an armed BARN_ECC injection (R594, R595). -/
def State.landWords (s : State) (n first words : Nat) : State :=
  let h := s.injHits 1 n words
  if h = 0 then s
  else
    let bits := if s.bell.injBits then 2 else 1
    (s.modEng n fun e => { e with barn := { e.barn with
      bad := (List.range h).foldl (fun t i => Tab.set 0 t (first + i) bits) e.barn.bad } }).useInj h

/-- The bytes a request of a LOAD brings: those of memory, or of the expanded image of a tensor (R428). -/
def State.reqBytes (s : State) (p : Plan) (r : Req) : List Byte :=
  if r.fa < bufBase then s.memBytes r.fa r.len
  else (List.range r.len).map fun i => s.imgByte (p.d (r.fa / bufBase)) (r.fa % bufBase + i)

/-- Land bytes in the tile's buffers. -/
def State.landBytes (s : State) (n a : Nat) (bs : List Byte) : State :=
  s.modEng n fun e => { e with buf := ((List.range bs.length).zip bs).foldl (fun t b => Tab.set none t (a + b.1) (some b.2)) e.buf }

/-- A request of a live tile lands. -/
def State.landReq (s : State) (n : Nat) (c : Claim) (r : Req) : State :=
  let s := s.landWords n (tileWord + r.fo / 8) (ceilDiv r.len 8)
  if s.liveClaim c then s.landBytes n r.fa (s.reqBytes (s.planOf (s.slot c.slot).entry.val) r) else s

/-- The Plough fetches descriptors `lo` to `hi` in bursts of 16, 512 bytes each, checked at the engine's port (R19, R21, R384). A burst that
fails finally fails the tile (R393). -/
def State.fetchDescs (s : State) (n : Nat) (c : Claim) (lo hi : Nat) : State :=
  if hi ≤ lo then s
  else forEach ((List.range ((hi - 1) / 16 - lo / 16 + 1)).map fun i => lo / 16 + i) (fun b s =>
    let r := s.portCheck n 2
    if r.1 then r.2.failTile n c.slot c.tile 0x05 (16 * b) true else r.2) s

/-- The descriptors of LOAD in a program: those up to the first PHASEEND. -/
def loadPart : List Xfer → List Xfer
  | [] => []
  | x :: l => if x.phaseEnd then [x] else x :: loadPart l

/-- LOAD of a tile begins: its descriptors are fetched and its rows become requests (R277, R384, R387, R388). -/
def State.beginLoad (s : State) (n : Nat) (c : Claim) : State :=
  let s := s.clobberBarn n
  if !s.liveClaim c then s
  else
    let prog := loadPart (s.slot c.slot).prog
    let s := s.fetchDescs n c 0 prog.length
    let p := s.planOf (s.slot c.slot).entry.val
    let r := s.loadReqs p prog c.tile
    (s.modEng n fun e => { e with buf := [], todo := r.1, rows := r.2, outs := [], millOut := 0 }).issueReads n

/-! ## Claiming (R256-R262) -/

/-- Engine groups that do not claim at the clock floor: one group of four at a time, from E20-E23 downward (R649). -/
def State.floorStopped (s : State) (n : Nat) : Bool := decide (6 ≤ n / 4 + s.power.floorGroups)

/-- An engine that may make a claim: enabled, its part of a SCRUB done, no debug access waiting for tiles to end, in a power
state in which engines claim (R262, R343, R623, R625, R649, R711). -/
def State.mayClaim (s : State) (n : Nat) : Bool :=
  s.engineMayClaim n && !(s.eng n).islandOff && (s.eng n).scrubs.isEmpty && s.sec.opening.isNone && !s.floorStopped n &&
    (s.dev.pstate == psActive || s.dev.pstate == psEntering)

/-- Send a claim (R256). -/
def State.sendClaim (s : State) (n : Nat) : State :=
  if s.mayClaim n && !(s.eng n).claiming && !(s.eng n).idle && decide ((s.eng n).claims.length < 2) then
    s.modEng n fun e => { e with claiming := true, outq := e.outq ++ [.claim] }
  else s

/-- A tile's deposit (R464). -/
def Deposit.of (c : Claim) (o : TileOut) : Deposit :=
  { slot := c.slot, tile := c.tile, epoch := c.epoch, elems := o.elems, cliph := o.cliph, clipl := o.clipl, satin := o.satin
    ext := o.ext.filterMap fun b => b.2.map fun x => (b.1, x.1, x.2) }

/-- An engine that holds no tile at work begins LOAD of the tile it has claimed, its part of a SCRUB done first (R343) and not in IDLE, in which its clock stands after the current tile (R623), or claims one (R260).
A tile of zero extent ends with DONE at once (R227). The fuel covers the two claims an engine can hold. -/
def State.nextTile : Nat → State → Nat → State
  | 0, s, _ => s
  | f + 1, s, n =>
    let e := s.eng n
    if s.dev.halted || e.claims.any fun c => c.phase != .claimed then s
    else
      match e.claims.find? fun c => c.phase == .claimed with
      | none => s.sendClaim n
      | some c =>
        if !e.scrubs.isEmpty || !(s.dev.pstate == psActive || s.dev.pstate == psEntering) then s
        else if s.liveClaim c && (s.planOf (s.slot c.slot).entry.val).emptyTile c.tile then
          nextTile f ((s.setCell (2 * n + c.cell) (some (Deposit.of c {}))).modEng n fun e => { e with
            claims := e.claims.erase c, outq := e.outq ++ [.done { slot := c.slot, tile := c.tile, epoch := c.epoch } c.cell] }) n
        else
          let c' := { c with phase := .load }
          (s.modEng n fun e => { e with claims := e.claims.map fun k => if k == c then c' else k, millKept := [] }).beginLoad n c'

/-- Engines that something kept from claiming, and that are free, claim or go on (R260, R262). -/
def State.wakeEngines (s : State) : State := forEach (List.range 24) (fun n s => s.nextTile 3 n) s

/-! ## Tiles cut short (R124, R268, R269, R394) -/

/-- Take over what the Sieve has done of a tile: the generator steps once for each DRAIN row of an SR command (R154), and elements are
counted (R161). -/
def State.sieved (s : State) (n : Nat) (r : SieveRun) : State :=
  let s := s.modEng n fun e => { e with
    sieve := none
    lanes := if r.sr then Tab.set [] e.lanes r.seq (srAdvance (Tab.get [] e.lanes r.seq) r.rows) else e.lanes }
  (((s.bump 0 n 6 r.elems).bump 0 n 7 r.cliph).bump 0 n 8 r.clipl).bump 0 n 9 r.satin

/-- The part of a DRAIN that has been made where a tile is cut short is open. -/
def State.cutSieve (s : State) (n : Nat) : State :=
  match (s.eng n).sieve with
  | none => s
  | some r => (s.sieved n { r with
      rows := s.freeAt 0 % (r.rows + 1), elems := s.freeAt 1 % (r.elems + 1), cliph := s.freeAt 2 % (r.cliph + 1)
      clipl := s.freeAt 3 % (r.clipl + 1), satin := s.freeAt 4 % (r.satin + 1) }).used 5

/-- A tile at work is cut short: the cycles spent in its phase are open, and so is how far its COMPUTE or DRAIN had come. -/
def State.cutTile (s : State) (n : Nat) (gone : Claim → Bool) : State :=
  match (s.eng n).claims.find? fun c => gone c && c.phase != .claimed with
  | none => s
  | some c =>
    if c.phase == .load then s.bumpFree 0 n 11
    else if c.phase == .compute then s.cutCompute n
    else (s.cutSieve n).bumpFree 0 n 13

/-- A tile is discarded (R268, R269, R570). -/
def State.discardTile (s : State) (n : Nat) (gone : Claim → Bool) : State := (s.cutTile n gone).modEng n fun e => e.discard gone

end Sys2Proof.Machine
end

