-- ==== Sys2Proof/Machine/Rings.lean ====
section
/-! DEFINITION. Admission, acceptance and the submission rings (R53-R55, R186, R451, R452, R457, R532, R738). -/

namespace Sys2Proof.Machine

/-! ## The checks of admission (R532) -/

/-- What admission answers. -/
inductive Verdict where
  | accept
  | dup (jseq : Word)
  | defer (reason : Nat)
  | refuse (reason : Nat)
deriving DecidableEq, Repr

/-- Reasons (R532). -/
def raQueueFull : Nat := 0x01
def raQuota : Nat := 0x02
def raState : Nat := 0x03
def raAuth : Nat := 0x04
def raShed : Nat := 0x05
def raWaking : Nat := 0x10
def raBusy : Nat := 0x11

/-- The lifecycle state admits work (R715). -/
def State.lcWork (s : State) : Bool := s.sec.lc = 0x3 || s.sec.lc = 0x5 || s.sec.lc = 0x9

/-- Thermal throttling is active (R651). -/
def State.throttling (s : State) : Bool := decide (s.power.thermCeil < 26)

/-- The entry that makes a submission a duplicate (R452). -/
def State.dupOf (s : State) (q : Nat) (org : BitVec 6) (host : Bool) (tag : Quad) : Option (Nat × Entry) :=
  (s.queueEntries q).find? fun p => p.2.originId == org && p.2.originHost == host && p.2.tag == tag

/-- Steps 2 to 8 of R532 for a queue of the part. `org` is the source endpoint of a SUBMIT or of a triggered submission; a ring
entry has none. -/
def State.admission (s : State) (q : Nat) (org : Option (BitVec 6 × Bool × Quad)) : Verdict :=
  let x := s.queue q
  if !s.dev.rdone || s.power.recovering || s.dev.halted || !s.dev.run || x.stopped || !x.en || !s.lcWork then .refuse raState
  else
    match org.bind fun o => s.dupOf q o.1 o.2.1 o.2.2 with
    | some p => .dup p.2.jseq
    | none =>
      if s.waking then .defer raWaking
      else if s.throttling && x.prio = 0 then .refuse raShed
      else if 2 ^ x.lsize.toNat ≤ ((s.queueEntries q).filter fun p => p.2.st == .accepted).length then .refuse raQueueFull
      else if x.quota.toNat ≤ s.depth q || 16384 ≤ s.usedEntries then .refuse raQuota
      else if 64 ≤ s.admitting then .defer raBusy
      else .accept

/-! ## Acceptance (R457) -/

/-- What a submission carries into its entry. -/
structure Submission where
  queue : Nat
  list : Addr
  tag : Quad
  ring : Option Half := none
  org : BitVec 6 := 0
  host : Bool := false
  port : BitVec 3 := 0
  form : Bool := false
  cplack : Bool := false

/-- A FREE entry: which one the Reeve chooses is open (log 1). -/
def State.chooseFree (s : State) : Nat :=
  let k := s.free
  (((List.range 16384).map fun i => (k + i) % 16384).find? fun e => (Tab.get {} s.ledger e).st == .free).getD 0

/-- The Reeve reads `TIME_LO` through the on-chip path (R720): the value read, and the state after. -/
def State.reeveTime (s : State) : Word × State :=
  let t := s.now
  (BitVec.ofNat 32 t, s.tick.modCtx .onchip fun c => { c with tlatch := BitVec.ofNat 32 (t / 2 ^ 32) })

/-- Accept a submission: the durable entry, the job record, and the queue's job number (R451, R457). -/
def State.accept (s : State) (x : Submission) : Word × State :=
  let e := s.chooseFree
  let s := s.used
  let (t, s) := s.reeveTime
  let q := s.queue x.queue
  let s := s.modQueue x.queue fun y => { y with jseq := y.jseq + 1 }
  let s := s.writeEntry e fun _ =>
    { st := .accepted, queue := BitVec.ofNat 5 x.queue, jseq := q.jseq, list := x.list, tag := x.tag, form := x.form, cplack := x.cplack
      originId := x.org, originHost := x.host, port := x.port, acctime := t }
  (q.jseq, s.setJob e { bslots := q.bslots, ringIdx := x.ring })

/-! ## The submission ring (R53-R55, R186, R738) -/

/-- Try the ring entry at QHEAD. -/
def State.ringTry (s : State) (q : Nat) : Bool × State :=
  let x := s.queue q
  let hold (r : Nat) : Bool × State :=
    let s' := s.modQueue q fun y => { y with held := true, reason := BitVec.ofNat 8 r }
    (false, if x.held then s' else s'.setIrq irqQhold)
  match s.admission q none with
  | .defer r => hold r
  | .refuse r => hold r
  | _ =>
    let a := x.base.toNat + 16 * (x.head.toNat % 2 ^ x.lsize.toNat)
    let bs := s.memBytes a 16
    let s := s.readBy clsControl a 16
    let s := (s.accept { queue := q, list := BitVec.ofNat 48 (fld bs 0 6), tag := BitVec.ofNat 64 (fld bs 8 8), ring := some x.head }).2
    (true, s.modQueue q fun y => { y with head := y.head + 1, held := false, reason := 0 })

/-- The Reeve reads a queue's ring. -/
def State.ringOpen (s : State) (q : Nat) : Bool := s.netUp && !s.sec.reeveHalted && (s.queue q).en && (s.queue q).head != (s.queue q).tail

/-- Read ring entries until one is held or none is left. -/
def State.ringRead : Nat → State → Nat → State
  | 0, s, _ => s
  | n + 1, s, q =>
    if s.ringOpen q then
      match s.ringTry q with
      | (true, s) => ringRead n s q
      | (false, s) => s
    else s

/-- Admission of a queue's ring entries; the fuel covers the largest ring. -/
def State.readRing (s : State) (q : Nat) : State := State.ringRead 32769 s q

/-- Try a held entry again (R55), and the entries behind it. -/
def State.retryQueue (s : State) (q : Nat) : State := if (s.queue q).held then s.readRing q else s

/-- The same for every queue. -/
def State.retryAll (s : State) : State := forEach (List.range 32) (fun q s => s.retryQueue q) s

end Sys2Proof.Machine
end

