-- ==== Sys2Proof/Machine/Session.lean ====
section
/-! DEFINITION. The owner's key and policy in force, and debug sessions: the end of an OPEN (R711) and the closing of a session (R712). -/

namespace Sys2Proof.Machine

/-- The owner public key, where it agrees with its fuse (R675). -/
def State.ownerKeyNow (s : State) : Option (List Byte) :=
  match s.sec.ownerKey, s.sec.okh with
  | some k, some h => if Config.sha256 k = h then some k else none
  | _, _ => none

/-- The owner policy in force: FIELD only, and only with a valid owner key (R681 step 6, R697). -/
def State.policyNow (s : State) : Option Quad := if s.sec.lc = 0x5 ∧ s.ownerKeyNow.isSome then s.sec.policy else none

/-- The end of a security operation (R688): RESULT, then BUSY clears; IRQSTAT.AUTH (R735). -/
def State.authEnd (s : State) (result : Nat) : State :=
  (s.modSec fun c => { c with busy := false, result := BitVec.ofNat 4 result }).setIrq irqAuth

/-- A failed token operation (R694, R718): AUTH_FAIL, then the end. -/
def State.authFail (s : State) (op result purpose path : Nat) : State := (s.record 0x0005 op result purpose path).authEnd result

/-- Close the debug session, if one is open (R712); `cause` is PARAM1 of DEBUG_CLOSE (R718). -/
def State.closeSession (s : State) (cause : Nat) : State :=
  if s.sec.debug = 0 then s
  else (s.record 0x0004 (BitVec.toNat s.sec.debug) cause 0 0).modSec fun c => { c with debug := 0 }

/-- Zero every Barn with valid check bits and clear every Stook (R341, R711 step 4). -/
def State.zeroEngines (s : State) : State :=
  { s with engines := (s.engines.map fun p => (p.1, { p.2 with barn := {}, stook := [] })).filter fun p => decide (p.2 ≠ {}) }

/-- Invalidate the whole Granary. -/
def State.zeroGranary (s : State) : State :=
  { s with slices := (s.slices.map fun p => (p.1, { p.2 with tags := [], plru := [], bad := [] })).filter fun p => decide (p.2 ≠ {}) }

/-- Zero Watch memory; the Watch program reverts to its basic-derived version, which runs nothing (R711 step 5). -/
def State.zeroWatch (s : State) : State :=
  (s.modWatch fun w => { w with mem := [], active := false, slen := none, counts := [] }).setTable 3 {}

/-- Steps 3 to 6 of OPEN (R711), once the part is awake and every engine has ended its tile; an open window ends it with BUSY. -/
def State.openCheck (s : State) : State :=
  match s.sec.opening with
  | none => s
  | some (signer, target, path) =>
    if !(s.dev.pstate == psActive || s.dev.pstate == psIdle) then s
    else if s.windows.any (fun w => w.2.st == .opn) then
      (s.modSec fun c => { c with opening := none }).authFail 0x03 5 target.toNat path
    else if s.windows.any (fun w => w.2.st == .closing) || s.engines.any (fun e => !e.2.claims.isEmpty) then s
    else
      let s := s.modSec fun c => { c with opening := none, debug := BitVec.ofNat 2 target.toNat }
      ((s.zeroEngines.zeroGranary.zeroWatch).record 0x0003 target.toNat signer.toNat path 0).authEnd 0

end Sys2Proof.Machine
end

