-- ==== Sys2Proof/Machine/Bell.lean ====
section
/-! DEFINITION. The Bell: the reaction table, reports, actions, the fault state and its exits (R560-R592). -/

namespace Sys2Proof.Machine

/-! ## Sources (R561) -/

/-- What a source's context names. -/
inductive FCtx where
  | tile
  | eng
  | slice
  | chan
  | port
  | queue
  | stream
  | device
deriving DecidableEq, Repr

/-- A fault source: code, context, class, action, ESCN, ESCCLS, ESCACT and SIGNAL of its default reaction. -/
structure FSource where
  code : Nat
  ctx : FCtx
  cls : Nat
  action : Nat
  escn : Nat := 0
  esccls : Nat := 0
  escact : Nat := 0
  signal : Nat := 0
deriving DecidableEq, Repr

/-- The sources of the engines and their paths (R561). -/
def engineSources : List FSource :=
  [⟨0x00, .tile, 1, 3, 0, 0, 0, 0⟩, ⟨0x01, .tile, 1, 3, 0, 0, 0, 0⟩, ⟨0x02, .eng, 0, 0, 15, 1, 3, 0⟩, ⟨0x03, .tile, 1, 3, 0, 0, 0, 0⟩,
   ⟨0x04, .tile, 0, 0, 2, 1, 3, 0⟩, ⟨0x05, .tile, 0, 1, 4, 1, 3, 0⟩, ⟨0x06, .eng, 0, 0, 0, 0, 0, 0⟩, ⟨0x07, .tile, 1, 3, 0, 0, 0, 0⟩,
   ⟨0x08, .eng, 1, 3, 0, 0, 0, 0⟩, ⟨0x09, .eng, 1, 3, 0, 0, 0, 0⟩, ⟨0x0A, .eng, 0, 0, 0, 0, 0, 0⟩, ⟨0x0B, .tile, 0, 1, 2, 1, 3, 0⟩,
   ⟨0x0C, .tile, 0, 2, 0, 0, 0, 0⟩, ⟨0x0D, .tile, 0, 1, 4, 1, 3, 0⟩]

/-- The sources of the shared blocks (R561). -/
def sharedSources : List FSource :=
  [⟨0x10, .slice, 0, 0, 15, 1, 4, 0⟩, ⟨0x11, .slice, 1, 4, 0, 0, 0, 0⟩, ⟨0x12, .device, 3, 8, 0, 0, 0, 0⟩, ⟨0x13, .device, 3, 8, 0, 0, 0, 0⟩,
   ⟨0x18, .chan, 0, 0, 0, 0, 0, 0⟩, ⟨0x19, .tile, 0, 1, 4, 3, 8, 0⟩, ⟨0x1A, .chan, 3, 8, 0, 0, 0, 0⟩,
   ⟨0x20, .device, 3, 8, 0, 0, 0, 0⟩, ⟨0x21, .device, 0, 0, 0, 0, 0, 0⟩, ⟨0x22, .queue, 0, 0, 0, 0, 0, 2⟩, ⟨0x23, .queue, 2, 6, 0, 0, 0, 0⟩,
   ⟨0x28, .port, 1, 5, 0, 0, 0, 0⟩, ⟨0x29, .device, 0, 0, 0, 0, 0, 0⟩, ⟨0x2A, .port, 0, 0, 15, 3, 8, 0⟩, ⟨0x2B, .port, 0, 0, 0, 0, 0, 2⟩,
   ⟨0x30, .stream, 2, 7, 0, 0, 0, 0⟩, ⟨0x31, .stream, 2, 7, 0, 0, 0, 0⟩, ⟨0x38, .device, 3, 8, 0, 0, 0, 0⟩,
   ⟨0x39, .device, 0, 0, 0, 0, 0, 2⟩, ⟨0x3A, .device, 0, 0, 0, 0, 0, 2⟩]

/-- The source of a code; none for a reserved code, under which no report is ever made. -/
def sourceOf (code : Nat) : Option FSource := (engineSources ++ sharedSources).find? fun f => f.code == code

/-- The three bytes of a reaction table entry that a default gives (R562). -/
def FSource.bytes (f : FSource) : List Byte :=
  [BitVec.ofNat 8 (f.cls + 4 * f.action + 64 * f.signal), BitVec.ofNat 8 (f.escn + 16 * f.esccls), BitVec.ofNat 8 f.escact]

/-- A default adjusted by `FLTCTL.PROFILE` and `FLTCTL.ALERTC` (R567). -/
def FSource.derive (f : FSource) (profile : Nat) (alertc : Bool) : FSource :=
  let f := if profile = 1 then
      let f := if f.cls = 1 then { f with cls := 3, action := 8 } else f
      if f.escn ≠ 0 ∧ f.esccls = 1 then { f with esccls := 3, escact := 8 } else f
    else if profile = 2 then { f with escn := 0 } else f
  if alertc ∧ f.cls = 0 then { f with signal := 2 } else f

/-- Byte `k` of the basic-derived reaction table under a setting PROFILE + 4 × ALERTC (R567). -/
def reactDerived (cfg k : Nat) : Byte :=
  match sourceOf (k / 8) with
  | some f => ((f.derive (cfg % 4) (decide (cfg / 4 % 2 = 1))).bytes[k % 8]?).getD 0
  | none => 0

/-- The setting the reaction table derives from. -/
def State.reactCfg (s : State) : Nat := s.bell.profile.toNat + if s.bell.alertc then 4 else 0

/-- Byte `k` of the active reaction table (R48). -/
def State.reactByte (s : State) (k : Nat) : Byte :=
  if (s.table 1).expert then Tab.get 0 (s.table 1).active k else reactDerived s.reactCfg k

/-- A reaction table entry (R562). -/
structure React where
  cls : Nat
  action : Nat
  signal : Nat
  escn : Nat
  esccls : Nat
  escact : Nat
  again : Bool
  noquiet : Bool
deriving DecidableEq, Repr

/-- Read an entry from its first four bytes. -/
def reactOf (b0 b1 b2 b3 : Nat) : React :=
  { cls := bitsOf b0 1 0, action := bitsOf b0 5 2, signal := bitsOf b0 7 6, escn := bitsOf b1 3 0, esccls := bitsOf b1 5 4
    escact := bitsOf b2 3 0, again := bitOf b3 0, noquiet := bitOf b3 1 }

/-- The active entry of a source. -/
def State.react (s : State) (code : Nat) : React :=
  reactOf (s.reactByte (8 * code)).toNat (s.reactByte (8 * code + 1)).toNat (s.reactByte (8 * code + 2)).toNat
    (s.reactByte (8 * code + 3)).toNat

/-- The class with which an action is legal (R563). -/
def actionClass (a : Nat) : Option Nat :=
  if a ≤ 2 then some 0 else if a ≤ 5 then some 1 else if a ≤ 7 then some 2 else if a = 8 then some 3 else none

/-- The actions a context can carry (R561, R563). -/
def ctxCarries (c : FCtx) (a : Nat) : Bool :=
  if a = 1 ∨ a = 2 then c == .tile
  else if a = 3 then c == .tile || c == .eng
  else if a = 4 then c == .slice
  else if a = 5 then c == .port
  else if a = 6 then c == .tile || c == .queue
  else if a = 7 then c == .stream
  else true

/-- An entry a commit admits (R563). -/
def entryLegal (code : Nat) (r : React) : Bool :=
  let carries (a : Nat) : Bool := match sourceOf code with
    | some f => ctxCarries f.ctx a
    | none => true
  actionClass r.action == some r.cls && carries r.action &&
    (r.escn == 0 || (actionClass r.escact == some r.esccls && carries r.escact))

/-! ## Actions (R569-R576) -/

/-- Every window of a fenced engine becomes CLOSED with LOST set (R362); a WCLOSE under way completes with FENCED (R482). -/
def State.fenceWindows (s : State) (n : Nat) : State :=
  forEach (List.range 8) (fun w s =>
    let x := s.window n w
    if x.st == .closed then s
    else
      let s := s.setWindow n w { x with st := .closed, lost := true, closer := none }
      match x.closer with
      | some e => s.failCommand e.val stFenced
      | none => s) s

/-- The port of a fenced engine: claims and answers that have not left are lost, while messages that have left arrive (R31, R265). -/
def leftPort (m : ToTally) : Bool := match m with
  | .claim => false
  | .done _ _ => true
  | .answer _ _ _ => true

/-- FENCE_ENG (R569): a tile in COMPUTE stops where it is (R124), the port closes, windows close, outstanding requests complete into
discard (R394), the Mill empties (R431), the Tally returns the claims, and every RUNNING job is DEGRADED (R482). A self-test or
re-admission of the engine is dropped (R592). -/
def State.fenceEngine (s : State) (n : Nat) (powerOff : Bool) : State :=
  let was := (s.eng n).fenced
  let s := if was then s else s.cutTile n fun _ => true
  let e := s.eng n
  let s := if e.testing then
      s.modBell fun b => { b with exit := b.exit.map fun x => { x with engs := x.engs.filter fun k => k.val != n } }
    else s
  let parts := e.scrubs
  let s := (s.bump 0 n 28 (readSectors e.outs + e.millOut + e.discOut)).setEng n { e with
    fenced := true, testing := false, readmit := false, claiming := false, idle := false, claims := []
    inq := [], outq := e.outq.filter leftPort, millKept := [], millBooks := [], buf := [], todo := [], outs := [], rows := [], millOut := 0
    wtodo := [], wouts := [], dep := none, sieve := none, discOut := 0, late := [], copyOut := 0
    scrubs := [], islandOff := e.islandOff || powerOff }
  let s := (s.setCell (2 * n) none).setCell (2 * n + 1) none
  let s := s.fenceWindows n
  let s := forEach parts (fun p s => s.failCommand p.1.val stFenced) s
  if was then s
  else
    let s := forEach s.liveEntries (fun p s =>
      if p.2.st == .running then s.writeEntry p.1 fun x => { x with degraded := true } else s) s
    s.returnEngine n

/-- RETURN (R570): the reporting engine's claim of the tile returns under a new epoch, and the engine discards it and is free (R260). -/
def State.returnTile (s : State) (n slot tile : Nat) : State :=
  let s := s.discardTile n fun c => c.slot == slot && c.tile == tile
  (s.returnClaims slot fun c => c.eng.val == n && c.tile == tile).nextTile 3 n

/-- DISABLE_SLICE (R572): accepted requests are handed to the remap slice in order, those that waited for a tracker last; the slice
keeps no data. -/
def State.disableSlice (s : State) (sl : Nat) : State :=
  let ms := (s.slice sl).misses
  let ws := (s.slice sl).waiting
  let s := s.setSlice sl { disabled := true }
  s.modSlice (s.remap sl) fun x => { x with waiting := x.waiting ++ ms.map (fun (m : Nat × Nat × Nat) => (m.1, m.2.1)) ++ ws }.track

/-- PORT_DOWN (R573). -/
def State.portDown (s : State) (p : Nat) : State := (s.modPort p fun x => { x with downf := true }).linkRelease p

/-- HALT (R576): engines stop where they are and claim nothing; commits stop; admission refuses. -/
def State.halt (s : State) : State :=
  let s := forEach (List.range 24) (fun n s => s.cutTile n fun _ => true) s
  let s := forEach (List.range 24) (fun n s => s.modEng n fun e => { e with claims := e.claims.map fun c => { c with computed := true } }) s
  s.modDev fun d => { d with halted := true }

/-! ## The fault state (R580-R584) -/

/-- Enter a fault state by a report (R581, R584), recorded as FAULT_ENTER or LATCHED (R602). -/
def State.enterFault (s : State) (cls code : Nat) : State :=
  let b := s.bell
  let target : FState := if cls = 3 then .halted else .fault
  let enters : Bool := match b.fstate with
    | .normal => true
    | .fault => decide (cls = 3)
    | .halted => false
    | .latched => false
  if enters then
    if b.count = b.limit then
      (s.modBell fun b => { b with fstate := .latched }).record 0x0203 code b.count.toNat 0 0
    else (s.modBell fun b => { b with fstate := target }).record 0x0200 (fstateCode target) code 0 0
  else s

/-! ## Handling a report (R564-R568) -/

/-- The queue a report names: the tile's command's queue, or the queue of the context (R561). -/
def State.reportQueue (s : State) (r : Report) : Nat :=
  match r.slot with
  | some i => if (s.slot i.val).used then (s.slot i.val).queue.toNat else 0xFF
  | none => r.queue.toNat

/-- The action has already been taken for the same instance (R568), or names nothing the part has. -/
def State.actionTaken (s : State) (a : Nat) (r : Report) : Bool :=
  if a = 3 then decide (24 ≤ r.inst) || ((s.eng r.inst).fenced && !(s.eng r.inst).testing)
  else if a = 4 then decide (64 ≤ r.inst) || (s.slice r.inst).disabled
  else if a = 5 then decide (8 ≤ r.inst) || (s.port r.inst).downf
  else if a = 6 then decide (32 ≤ s.reportQueue r) || (s.queue (s.reportQueue r)).stopped
  else if a = 7 then decide (16 ≤ r.inst) || (s.stream r.inst).stopped
  else if a = 8 then s.dev.halted
  else false

/-- The status a source implies for FAILCMD (R571): CRC. -/
def failStatus : Nat := stCrc

/-- Carry out an action (R569-R576). A RETURN or FAILCMD whose tile's epoch is stale acts as LOG (R570). -/
def State.act (s : State) (a : Nat) (r : Report) : State :=
  let live (i : Fin 64) : Bool := (s.slot i.val).used && !(s.slot i.val).stopping && (s.slot i.val).epoch == r.epoch
  if s.actionTaken a r then s
  else if a = 1 then match r.slot with
    | some i =>
      if live i && (s.slot i.val).opn.any (fun c => c.eng.val == r.inst && c.tile == r.tile) then
        s.returnTile r.inst i.val r.tile
      else s
    | none => s
  else if a = 2 then match r.slot with
    | some i => if live i then s.failSlot i.val failStatus else s
    | none => s
  else if a = 3 then s.fenceEngine r.inst (r.source.val == 0x08 || r.source.val == 0x09)
  else if a = 4 then s.disableSlice r.inst
  else if a = 5 then s.portDown r.inst
  else if a = 6 then s.stopQueue (s.reportQueue r)
  else if a = 7 then s.modStream r.inst fun x => { x with stopped := true }
  else if a = 8 then s.halt
  else s

/-- What the signal of a report is (R562, R564): 1 none, 2 ALERT, 3 FLT. -/
def State.signalOf (s : State) (e : React) (cls action : Nat) (r : Report) : Nat :=
  if e.signal ≠ 0 then e.signal
  else if cls = 0 then 1
  else if cls = 2 then
    if action = 6 ∧ (s.queue (s.reportQueue r)).safe then 3 else 2
  else 3

/-- Source and instance as one index (R565). -/
def reportKey (r : Report) : Nat := r.source.val * 256 + r.inst

/-- The reaction to a report releases what the checker held: the hold of a residue fault (R119), and a tile that received poisoned data,
whichever tile of the engine the report names (R346). -/
def State.release (s : State) (r : Report) : State :=
  if r.source.val = 0x00 then s.modEng r.inst fun g => { g with hold := false }
  else if r.source.val = 0x03 then s.modEng r.inst fun g => { g with claims := g.claims.map fun c => { c with poisoned := false } }
  else s

/-- Handle one report (R565, R566, R568): count, classify, record, signal, move the fault state, act. -/
def State.handleReport (s : State) (r : Report) : State :=
  let code := r.source.val
  match sourceOf code with
  | none => s
  | some _ =>
    let e := s.react code
    let s := s.bump 11 code 0 1
    let n := Tab.get 0 s.bell.esc (reportKey r) + 1
    let esc : Bool := decide (e.escn ≠ 0) && decide (e.escn ≤ n)
    let cls := if esc then e.esccls else e.cls
    let action := if esc then e.escact else e.action
    let s := s.modBell fun b => { b with esc := Tab.set 0 b.esc (reportKey r) (if esc then 0 else n) }
    let s := if esc then s.bump 11 code 1 1 else s
    let first : Bool := !s.bell.seen.contains (reportKey r)
    let s := s.modBell fun b => { b with seen := if first then reportKey r :: b.seen else b.seen }
    let s := if code = 0x1A then s.modBell fun b => { b with badChans := r.inst :: b.badChans.erase r.inst } else s
    let sig := s.signalOf e cls action r
    let q := s.reportQueue r
    let s := if cls ≠ 0 || e.again || first || code == 0x22 then
        s.addRec (s.mkRec (0x0100 + code) (r.inst % 256 + action * 256 + (min n 65535) * 65536) r.detail.toNat
          (r.epoch.toNat + (match r.slot with
            | some i => i.val * 65536
            | none => 0)) q
          (cls + 4 + (if r.inj then 8 else 0) + (if esc then 16 else 0)))
      else s
    let s := s.setFlt (1#8 <<< cls)
    let s := if sig = 2 then s.alert else s
    let s := if cls = 0 then (if sig = 3 then s.modBell fun b => { b with cflt := true } else s)
      else
        let s := s.enterFault cls code
        let s := s.modBell fun b => { b with
          quietRunning := b.quietRunning || !e.noquiet || b.reactions.isEmpty
          reactions := b.reactions ++ [{ source := code, inst := if action = 6 then q else r.inst, cls := cls, action := action, flt := sig == 3 }]
          exit := b.exit.map fun x => { x with late := true } }
        s.flush
    let s := s.act action r
    s.release r

/-! ## Exits (R582, R585) -/

/-- Steps 4 to 6 of R582, when every self-test has ended: ports and queues and streams come back, COUNT, causes, record. -/
def State.finishExit (s : State) (x : FExit) : State :=
  let left := s.bell.reactions.drop x.dealt.length
  let kept (action inst : Nat) : Bool := left.any fun r => r.action == action && r.inst == inst
  let s := forEach (List.range 8) (fun p s => s.modPort p fun q => { q with downf := q.downf && kept 5 p }) s
  let s := forEach (List.range 32) (fun q s => s.modQueue q fun y => { y with stopped := y.stopped && kept 6 q }) s
  let s := forEach (List.range 16) (fun t s => s.modStream t fun y => { y with stopped := y.stopped && kept 7 t }) s
  let count := if x.auto && s.bell.count ≠ 15 then s.bell.count + 1 else s.bell.count
  let hasX := left.any fun r => r.cls == 3
  let atLimit : Bool := count == s.bell.limit
  let fs : FState :=
    if left.isEmpty then (if !x.auto && s.bell.fstate == .latched && atLimit then .latched else .normal)
    else if atLimit then .latched
    else if hasX then .halted else .fault
  let s := s.modBell fun b => { b with
    count := count, cflt := false, reactions := left, fstate := fs, exit := none, seen := []
    quietRunning := !left.isEmpty }
  ((s.modDev fun d => { d with retryDue := true }).bump 12 0 0 1).record 0x0201 count.toNat (if x.auto then 0 else 1) x.readmitted.toNat x.retired.toNat

/-- Steps 2 and 3 of R582 begin: every engine fenced by the Bell and every disabled slice starts its self-test. A retired
engine waits for `ENGCTL` (R586), and an automatic exit leaves out engines disabled there. -/
def State.startTests (s : State) (x : FExit) : State :=
  let engs := (List.finRange 24).filter fun n =>
    (s.eng n.val).fenced && !(s.eng n.val).retired && !(s.eng n.val).testing && !(x.auto && s.dev.dis.getLsbD n.val)
  let slices := (List.finRange 64).filter fun n => (s.slice n.val).disabled && !(s.slice n.val).testing
  let s := forEach engs (fun n s => s.modEng n.val fun e => { e with testing := true }) s
  let s := forEach slices (fun n s => s.modSlice n.val fun e => { e with testing := true }) s
  s.modBell fun b => { b with exit := some { x with engs := engs, slices := slices, waitReset := false } }

/-- Start an exit (R582, R585). In HALTED the Steward first requests a warm reset; the tests follow its recovery. -/
def State.startExit (s : State) (auto : Bool) : State :=
  if s.bell.exit.isSome then s
  else
    let x : FExit := { auto := auto, waitReset := s.dev.halted, dealt := s.bell.reactions }
    let s := s.modBell fun b => { b with quietRunning := false }
    if s.dev.halted then
      (s.modBell fun b => { b with exit := some x }).modPower fun p => { p with wrstReq := some 2 }
    else s.startTests x

/-- An exit whose self-tests have all ended completes. -/
def State.exitCheck (s : State) : State :=
  match s.bell.exit with
  | some x => if !x.waitReset && x.engs.isEmpty && x.slices.isEmpty then s.finishExit x else s
  | none => s

/-- Handle waiting reports one at a time, in order (R568); the fuel covers the Ledger reports that handling itself raises. -/
def State.drainReports : Nat → State → State
  | 0, s => s
  | n + 1, s =>
    match s.bell.heldReports with
    | [] => s
    | r :: rest => drainReports n ((s.modBell fun b => { b with heldReports := rest }).handleReport r)

/-- Reports are handled unless a warm reset holds them (R592). -/
def State.reportsDone (s : State) : State :=
  if s.bell.inReset || s.bell.heldReports.isEmpty then s
  else State.drainReports (s.bell.heldReports.length + s.badP.length + s.badM.length + 1) s

/-- An OPEN whose tiles have ended completes (R711), and engines that it kept from claiming go on. -/
def State.openDone (s : State) : State :=
  let t := s.openCheck
  if s.sec.opening.isSome && t.sec.opening.isNone then t.wakeEngines else t

/-- Held ring entries are tried again where the command gave cause (R55). -/
def State.retryCheck (s : State) : State :=
  if s.dev.retryDue then ((s.modDev fun d => { d with retryDue := false }).retryAll).reportsDone else s

/-- The end of every command: reports, an exit that has nothing left to wait for, an OPEN, and held ring entries. -/
def State.settle (s : State) : State := s.reportsDone.exitCheck.openDone.retryCheck

/-- The outcome of a command whose effect is `s`. -/
def done (s : State) : Host.Outcome State Fault Refusal := .next s.settle

end Sys2Proof.Machine
end

