-- ==== Sys2Proof/Machine/Loader.lean ====
section
/-! DEFINITION. The loader checks of R242, each step a function of its own; the first failure in order decides. -/

namespace Sys2Proof.Machine

/-- The outcome of the loader check. `cause` is the CMD_STATE cause of R602 for a failure with STATE. -/
inductive Chk where
  | pass
  | fail (status step ddesc cause : Nat)
  | wait
deriving DecidableEq, Repr

/-- What a check sees: the job's entry, its command, its plan, and the descriptors as they lie in memory. -/
structure LoadCtx where
  e : Nat
  q : Nat
  cidx : Nat
  list : Nat
  raw : List Byte
  c : Cmd
  p : Plan
  slots : Tab Word
deriving DecidableEq, Repr

/-- The first check of a list that finds its fault, as the index of the descriptor concerned. -/
def firstBad (l : List (Bool × Nat)) : Option Nat := (l.find? fun b => b.1).map fun b => b.2

/-- A failure of a step with a status, from a list of checks. -/
def failIf (status step : Nat) (l : List (Bool × Nat)) : Option Chk := (firstBad l).map fun i => .fail status step i 0

/-- No descriptor concerned. -/
def nd : Nat := 0xFF

/-! ## Step 1 -/

/-- Step 1: the entry lies in DRAM, the descriptor array and the loop table in DRAM or flash. -/
def State.step1 (s : State) (x : LoadCtx) : Option Chk :=
  let ok (a n : Nat) : Bool := inDram a n || inFlash a n
  let table : Bool := tiledOp x.c.op && !x.c.auto
  failIf stCapacity 1 [(!inDram (x.list + 64 * x.cidx) 64, nd),
    (decide (0 < x.c.ndesc) && !ok x.c.desc (32 * min 12 x.c.ndesc), nd),
    (table && (!ok x.c.loop 16 || !ok x.c.loop (16 + 16 * min 6 (s.memByte x.c.loop).toNat)), nd)]

/-! ## Step 2 (R194-R197, R212) -/

/-- Immediate bytes an opcode uses, with the bits of each that are fields. -/
def immUsed (c : Cmd) : List (Nat × Nat) :=
  let full (l : List Nat) : List (Nat × Nat) := l.map fun b => (b, 0xFF)
  let o := c.op
  if o = opConv ∨ o = opDwconv then full [40, 41, 42, 43, 44, 45, 46, 47, 49, 50, 51, 52] ++ [(48, 0x0F)]
  else if o = opPool then full [40, 41, 42, 43, 44, 45] ++ [(46, 0x0F), (47, 0x03)]
  else if o = opBoxpool then full [40, 41, 42, 43, 44, 45, 46, 47, 48]
  else if o = opEltw ∨ o = opReduce then [(40, 0xFF), (41, 0x0F)]
  else if o = opCopy then full [40, 41, 42, 43, 44, 45, 46]
  else if o = opSend then full [40, 41, 42, 44, 45, 46, 47, 48, 49]
  else if o = opLoadb then full [40, 41, 42, 43, 44, 45, 46, 47]
  else if o = opSignal then full [40, 44, 45, 46, 47]
  else if o = opWait then full [40, 41, 44, 45, 46, 47, 48, 49, 50, 51]
  else if o = opWopen then full [40, 41, 44, 45, 46, 47, 48, 49, 50, 51, 52, 53, 54, 56, 57, 58, 59, 60, 61, 62, 63]
  else if o = opWclose then full [40, 41]
  else if o = opScrub then full [40, 41, 42] ++ [(43, 0x07)]
  else if o = opCodebook then full [40, 42, 43]
  else []

/-- A reserved immediate bit is set. -/
def immResv (c : Cmd) : Bool :=
  (List.range 24).any fun i =>
    let m := (((immUsed c).find? fun b => b.1 == 40 + i).map fun b => b.2).getD 0
    decide ((c.im (40 + i)) &&& (0xFF - m) ≠ 0)

/-- Step 2. RCONT is compared where the program entry can be read and names RERUN (R197). -/
def State.step2 (s : State) (x : LoadCtx) : Option Chk :=
  let c := x.c
  let react := ((s.progOf x.p).map fun e => e.react).getD 0
  failIf stFormat 2 [(!knownOp c.op || c.resv || immResv c || decide (7 < c.arith ∨ 1 < c.round ∨ 1 < c.init ∨ 4 < c.actfn), nd),
    (!fieldOp c.op && decide (c.arith ≠ 0 ∨ c.init ≠ 0 ∨ c.smul ≠ 0 ∨ c.sshift ≠ 0 ∨ c.rcont ≠ 0), nd),
    (!c.usesSieve && decide (c.actfn ≠ 0 ∨ c.alpha ≠ 0 ∨ c.round ≠ 0 ∨ c.clo ≠ 0 ∨ c.chi ≠ 0 ∨ c.pentry ≠ 0 ∨ c.seed ≠ 0), nd),
    (!x.p.has roOlist && c.arith != 7 && decide (c.smul ≠ 0 ∨ c.sshift ≠ 0), nd),
    (c.auto && decide (c.loop ≠ 0), nd),
    (react == 2 && decide (c.rcont ≤ x.cidx), nd)]

/-! ## Steps 3 and 4 -/

def State.step3 (_ : State) (x : LoadCtx) : Option Chk :=
  (failIf stCount 3 [(decide (x.cidx = 65535) && x.c.op != opEnd, nd), (decide (12 < x.c.ndesc), nd)]).or
    (failIf stAlign 3 [(decide (0 < x.c.ndesc) && decide (x.c.desc % 64 ≠ 0), nd)])

def State.step4 (_ : State) (x : LoadCtx) : Option Chk :=
  failIf stOrder 4 [(x.c.op == opWait && decide (x.q ≤ x.c.im 40), nd)]

/-! ## Step 5: device state (R164, R180, R214, R421, R423) -/

/-- What the Reeve keeps of the commands of other jobs; interlocks stand for those that have passed their loader check and not completed, and
for those that recovery derived from their entries (R485 step 2). -/
def State.holders (s : State) (e : Nat) : List (Nat × JobRun) := s.runs.filter fun r => r.1 != e

/-- The stream and generation that each Zifer tensor of a command names (R401, R421), with its descriptor. -/
def State.zifers (s : State) (p : Plan) : List (Nat × Desc × Nat × Nat) :=
  (p.idxed.filter fun t => t.2.zifer && !objectRole t.2.role).map fun (i, t) =>
    if p.cmd.copyIs subCompress && t.role = roY then (i, t, p.cmd.im 46 % 16, p.cmd.im 44 2)
    else (i, t, (s.zhdr t.addr).stream, (s.zhdr t.addr).cgen)

/-- ECRC of a codebook object (R415). -/
def State.cbEcrc (s : State) (a : Nat) : Nat := leNat (s.memBytes (a + 8) 4)

/-- The CMD_STATE cause that step 5 finds. A command that a warm reset interrupted after its check keeps its codebook references and is not
checked again under R421 (R427). -/
def State.stateCause (s : State) (x : LoadCtx) : Option Nat :=
  let c := x.c
  let p := x.p
  let ad := s.adaptsOf p
  let cb := p.d roCbook
  let pmode := if c.op == opPool then c.im 46 else c.im 48
  let asym := (c.op == opConv || c.op == opDwconv || c.op == opPool) && bitOf pmode 3
  if (s.holders x.e).any (fun r => (s.entry r.1).queue.toNat != x.q && r.2.adapts.any fun a => ad.contains a) then some 1
  else if c.op == opOptim && p.has roGenrec && (s.holders x.e).any (fun r => r.2.genrec == some (p.d roGenrec).addr) then some 2
  else if asym && !s.dev.service then some 3
  else if !(s.sec.lc == 3 || s.sec.lc == 5 || s.sec.lc == 9) then some 4
  else if !(s.dev.pstate == psActive || s.dev.pstate == psIdle) then some 5
  else if (s.zifers p).any (fun z => (s.cbHeld z.2.2.1 z.2.2.2).isNone &&
      !(s.job x.e).cbrefs.contains (BitVec.ofNat 4 z.2.2.1, BitVec.ofNat 16 z.2.2.2)) then some 6
  else if c.op == opCodebook && p.has roCbook && (decide (c.im 42 2 = 0) ||
      (match s.cbAny (c.im 40 % 16) (c.im 42 2) with
        | some y => decide (y.caddr.toNat ≠ cb.addr) || decide (y.ecrc.toNat ≠ s.cbEcrc cb.addr)
        | none => false)) then some 7
  else none

def State.step5 (s : State) (x : LoadCtx) : Option Chk := (s.stateCause x).map fun k => .fail stState 5 nd k

/-! ## Step 6: signed images (R697-R703) -/

/-- A verified region. -/
def regionOf (r : Option (Addr × Word)) : List (Nat × Nat) :=
  match r with
  | some (a, n) => [(a.toNat, n.toNat)]
  | none => []
def State.regionList (s : State) : List (Nat × Nat) := (s.sec.regions.map fun r => regionOf r.2).flatten

/-- REQSIGN is in force. -/
def State.reqsign (s : State) : Bool := (s.policyNow.getD 0).getLsbD 0

/-- A range overlaps a verified region. -/
def State.inVerified (s : State) (a n : Nat) : Bool :=
  s.regionList.any fun r => decide (0 < n) && decide (a < r.1 + r.2) && decide (r.1 < a + n)

def State.step6 (s : State) (x : LoadCtx) : Option Chk :=
  let signed (r : Rng) : Bool := s.regionList.any fun g => decide (g.1 ≤ r.a) && decide (r.a + r.n ≤ g.1 + g.2)
  let need := (x.p.idxed.map fun (i, t) =>
    if t.role = roW ∨ t.role = roWwino ∨ t.role = roOw then s.tensorRanges t i
    else if t.role = roCbook then [⟨t.addr, s.objectLen x.p t, i⟩] else []).flatten
  let c := x.c
  failIf stAuth 6 (
    (need.map fun r => (s.reqsign && !signed r, r.i)) ++
    ((x.p.outputs ++ s.tableOutputs x.p).map fun r => (s.inVerified r.a r.n, r.i)) ++
    [(c.op == opOptim && x.p.has roGenrec && s.inVerified (x.p.d roGenrec).addr 64, x.p.didx roGenrec),
     (c.op == opWopen && s.inVerified (c.im 40 * 0x1000000 + c.im 44 4) (c.im 48 4), nd)])

/-! ## Step 7: formats -/

/-- Required and optional roles of an opcode (R210). -/
def rolesOf (o : Nat) : List Nat × List Nat :=
  let sv := [roSprog, roStatrec]
  if o = opGemm then ([roX, roW, roY], [roBias, roOlist, roOx, roOw, roYalt, roActtab] ++ sv)
  else if o = opConv then ([roX, roW, roY], [roWwino, roBias, roOlist, roOx, roOw, roYalt, roActtab] ++ sv)
  else if o = opDwconv then ([roX, roW, roY], [roBias, roYalt, roActtab] ++ sv)
  else if o = opPool then ([roX, roY], sv)
  else if o = opBoxpool then ([roX, roBoxes, roY], sv)
  else if o = opEltw then ([roX, roX2, roY], roActtab :: sv)
  else if o = opReduce then ([roX, roY], sv)
  else if o = opLut then ([roX, roLtab, roY], [])
  else if o = opCopy then ([roX, roY], sv)
  else if o = opSend then ([roX], [])
  else if o = opOptim then ([roParam, roGrad, roMom, roMaster, roWork], [roSmom, roGenrec])
  else if o = opStats then ([roX, roY, roSprog], [roStatrec])
  else if o = opWopen then ([], [roWrec])
  else if o = opCodebook then ([roCbook], [])
  else ([], [])

/-- Activation and weight code types of a mode (R128). -/
def modeTypes (m : Nat) : List Nat × List Nat :=
  if m = 0 then ([cS4, cU4], [cS4, cU4]) else if m = 1 then ([cS4, cU4], [cS2, cU2]) else if m = 2 then ([cS2, cU2], [cS2, cU2])
  else if m = 3 then ([cTern], [cTern]) else if m = 4 then ([cBin], [cBin]) else if m = 5 then ([cS8, cU8], [cS4, cU4])
  else if m = 6 then ([cS8, cU8], [cS8, cU8]) else ([cS8], [cS8])

/-- Checks of one descriptor: R125, R130, R133, R138, R200-R206, R399, R401, R403, R421, R787. `raw` has its slots unresolved. -/
def State.descBad (s : State) (p : Plan) (raw t : Desc) : Bool :=
  let c := p.cmd
  if objectRole t.role then raw.extra
  else
    let scaled := codeScaled t.code
    let dims := (List.range 4).any fun d =>
      let sl := bitOf raw.pslot d
      let e := raw.ext d
      if raw.rank ≤ d then sl || decide (e ≠ 1) else sl && decide (16 ≤ e)
    let zok := (t.role == roX || t.role == roX2 || t.role == roW || t.role == roGrad || (t.role == roY && c.copyIs subCompress)) &&
      (scaled || t.code == cBf16) && !t.genrel
    let h := s.zhdr t.addr
    let zread := t.zifer && !(t.role == roY)
    decide (10 < t.code) || t.resv || dims ||
    (t.genrel && !(match p.ds[t.gidx]? with
      | some g => g.role == roGenrec
      | none => false)) || (!t.genrel && decide (t.gidx ≠ 0)) ||
    (t.trans && !(c.op == opGemm && (t.role == roX || t.role == roW))) ||
    (t.spt && decide (t.sblk ≠ 0 ∨ t.saxis ≠ 0)) ||
    (scaled == decide (t.stab = 0)) || (codeUnsigned t.code && decide (t.zkind = 0)) ||
    (scaled && (!fpPosNormal (s.stG t.stab) || s.stCode t.stab != t.code || decide (s.stNb t.stab = 0 ∨ 1048576 < s.stNb t.stab) ||
      decide (1048576 < s.stNz t.stab))) ||
    (t.zifer && !zok) ||
    (zread && (decide (h.version ≠ 1) || !(h.kind == 1 || h.kind == 2) || h.resv || decide (h.nblk ≠ ceilDiv h.ulen 4096))) ||
    (t.zifer && (match s.cbHeld (if zread then h.stream else c.im 46 % 16) (if zread then h.cgen else c.im 44 2) with
      | some y => (zread && decide (y.kind ≠ h.kind)) || decide (y.ecode ≠ t.code)
      | none => false))

/-- Role rules: R199, R210, R211. -/
def State.roleChecks (s : State) (x : LoadCtx) : List (Bool × Nat) :=
  let p := x.p
  let c := x.c
  let (req, opt) := rolesOf c.op
  let react := ((s.progOf p).map fun e => e.react).getD 0
  let alg := (s.memByte (p.d roParam).addr).toNat
  (p.idxed.map fun (i, t) => (!(req.contains t.role || opt.contains t.role) || p.didx t.role != i, i)) ++
  [(req.any fun r => !p.has r, nd),
   (p.has roBias != (c.init == 1), p.didx roBias),
   (!(p.has roOlist == p.has roOx && p.has roOx == p.has roOw), p.didx roOlist),
   (p.has roActtab != (c.actfn == 4), p.didx roActtab),
   (p.has roYalt != (react == 2), p.didx roYalt),
   (c.op == opOptim && p.has roSmom != (alg == 1), p.didx roSmom),
   (c.op == opStats && (decide (p.y.addr ≠ 0) || !codeScaled p.y.code), p.didx roY)]

/-- Immediate ranges (R212, R213, R292, R293, R306, R344, R409). -/
def Cmd.immBad (c : Cmd) (p : Plan) : Bool :=
  let b := c.im
  let out (v lo hi : Nat) : Bool := decide (v < lo) || decide (hi < v)
  let fac (v : Nat) : Bool := v == 0 || v == 2 || v == 3 || v == 4
  let o := c.op
  if o = opConv ∨ o = opDwconv then
    out (b 40) 1 11 || out (b 41) 1 11 || out (b 42) 1 8 || out (b 43) 1 8 || out (b 44) 1 8 || out (b 45) 1 8 ||
    decide (4 < b 48 % 8) || !fac (b 50 % 16) || !fac (b 50 / 16) || (o == opDwconv && decide (b 50 ≠ 0)) ||
    (!bitOf (b 48) 3 && decide (b 51 ≠ 0 ∨ b 52 ≠ 0)) ||
    (decide (b 48 % 8 = 1) && (if codeUnsigned p.x.code then decide (codeMax p.x.code < (b 49 : Int))
      else decide (toSigned 8 (b 49) < codeMin p.x.code) || decide (codeMax p.x.code < toSigned 8 (b 49)) ||
        (p.x.code == cBin && decide (b 49 = 0))))
  else if o = opPool then
    out (b 40) 1 16 || out (b 41) 1 16 || out (b 42) 1 16 || out (b 43) 1 16 || decide (4 < b 46 % 8) || decide (b 46 % 8 = 1) ||
    bitOf (b 46) 3
  else if o = opBoxpool then
    out (b 40) 1 16 || out (b 41) 1 16 || out (b 42) 1 4 || out (b 43) 0 1 || out (b 48) 0 1 || (b 48 == 0 && out (c.im 44 4) 1 4096)
  else if o = opEltw then out (b 40) 0 4
  else if o = opReduce then out (b 40) 0 3
  else if o = opCopy then
    out (b 40) 0 3 || (if b 40 ≤ 1 then decide (leNat ((c.imm.drop 1).take 6) ≠ 0)
      else
        out (b 41) 0 1 || !(b 42 == 4 || b 42 == 8 || b 42 == 16) || !(b 43 == 4 || b 43 == 8 || b 43 == 12) || out (b 46) 0 15 ||
        (b 40 == 2 && b 41 == 0 && decide (b 42 * codeBits p.x.code ≤ b 43)))
  else if o = opSend then out (b 40) 0 63 || out (b 41) 0 23 || out (b 42) 0 7
  else if o = opLoadb then out (b 40) 0 15 || out (b 41) 1 16
  else if o = opSignal then out (b 40) 0 3 || out (c.im 44 4) 1 0x7FFFFFFF
  else if o = opWait then out (b 40) 0 31 || out (b 41) 0 3
  else if o = opWopen ∨ o = opWclose then out (b 40) 0 23 || out (b 41) 0 7
  else if o = opScrub then decide (b 43 % 8 = 0) || (decide (b 43 % 4 ≠ 0) && decide (c.im 40 3 = 0))
  else if o = opCodebook then out (b 40) 0 15
  else false

/-- Dimensions an opcode admits on outer and on inner levels (R221). -/
def admitted (c : Cmd) : List Nat × List Nat :=
  let o := c.op
  if o = opGemm then ([dM, dN], [dK])
  else if o = opConv then ([dB, dG, dN, dH, dW], [dC, dKh, dKw])
  else if o = opDwconv then ([dB, dC, dH, dW], [dKh, dKw])
  else if o = opPool then ([dB, dC, dH, dW], [])
  else if o = opBoxpool then ([dM, dC], [])
  else if o = opReduce then
    let ds := (List.range 4).map fun d => (ewDim d, c.axis d)
    ((ds.filter fun d => !d.2).map fun d => d.1, (ds.filter fun d => d.2).map fun d => d.1)
  else ([dB, dC, dH, dW], [])

/-- Checks of a loop table (R217-R223, R229, R287, R301, R307). -/
def State.tableBad (s : State) (x : LoadCtx) : Bool :=
  let c := x.c
  if !tiledOp c.op then c.auto || decide (c.loop ≠ 0)
  else if c.linear then !c.auto
  else if c.auto then false
  else
    let h := s.memBytes c.loop 16
    let n := fld h 0 1
    let t := x.p.loop
    let raws := (List.range (min 6 n)).map fun i => levelOf (s.memBytes (c.loop + 16 + 16 * i) 16)
    let (outs, ins) := admitted c
    let lv := (List.range t.levels.length).zip t.levels
    let two := t.pairsNaming.any fun p => decide (p.2.tile % p.1.step ≠ 0)
    let whole := (c.op == opConv || c.op == opDwconv) && lv.any fun l =>
      decide (l.1 < t.nin) && !(l.2.tile == l.2.step && l.2.step == l.2.bound &&
        l.2.bound == carriedExt c x.p.x x.p.w x.slots l.2.dim)
    let group := c.op == opConv && decide (1 < x.p.geo.g) &&
      !(lv.any fun l => l.2.dim == dG && l.2.tile == 1 && l.2.step == 1)
    let even := x.p.wino && [dH, dW].any fun d => match t.outerNaming d with
      | l :: _ => decide (l.2.tile % 2 ≠ 0) || decide (l.2.step % 2 ≠ 0)
      | [] => false
    decide (n < 1) || decide (6 < n) || decide (n ≤ t.nin) || decide (fld h 2 1 / 2 ≠ 0) || decide (fld h 3 1 ≠ 1) ||
    decide (fld h 4 12 ≠ 0) || (t.curve && decide (n < t.nin + 2)) ||
    raws.any (fun l => l.resv || decide (9 < l.dim) || decide (l.step = 0) || decide (l.tile = 0) || (l.bsrc && decide (15 < l.bound))) ||
    lv.any (fun l => if l.1 < t.nin then !ins.contains l.2.dim || l.2.tile != l.2.step
      else !outs.contains l.2.dim || decide (l.2.step < l.2.tile)) ||
    two || whole || group || even

/-- The Sieve's encodings (R144-R151, R162, R163, R169). In a re-run Y and YALT are exchanged; R169 speaks of the command as it stands. -/
def State.sieveChecks (s : State) (x : LoadCtx) : List (Bool × Nat) :=
  let p := x.p
  let c := x.c
  let y := p.y
  let sp := p.didx roSprog
  let a := (p.d roActtab).addr
  let e := s.sprog (p.d roSprog).addr c.pentry
  let run := e.src == 1 || e.react == 1
  let clo := toSigned 16 c.clo
  let chi := toSigned 16 c.chi
  let again := (s.job x.e).rerunPhase
  let first := if again then p.d roYalt else y
  let alt := if again then y else p.d roYalt
  [(c.op == opPool && !c.usesSieve && p.has roSprog, sp)] ++
    (if !c.usesSieve then [] else
    [(c.actfn == 3 && (decide (chi < clo) || (codeScaled y.code && (decide (clo < codeMin y.code) || decide (codeMax y.code < chi)))), nd),
     (p.has roActtab && (decide (leNat (s.memBytes (a + 3) 61) ≠ 0) ||
       decide (toSigned 8 (s.memByte (a + 2)).toNat < -8) || decide (7 < toSigned 8 (s.memByte (a + 2)).toNat)), p.didx roActtab),
     (y.code == cS32 && decide (c.actfn ≠ 0 ∨ c.round ≠ 0), p.didx roY),
     ((y.code == cBf16 || y.code == cFp32) && decide (2 < c.actfn), p.didx roY)]) ++
    (if p.has roSprog then
      [(decide (e.version ≠ 1) || decide (e.count < 1) || decide (16 < e.count) || decide (e.count ≤ c.pentry) || e.hresv || e.resv, sp),
       (decide (1 < e.src) || decide (2 < e.react) || decide (e.win < 1) || decide (16 < e.win), sp),
       (run && decide (cTern ≤ y.code) && y.code != cS8 && y.code != cU8, sp),
       (s.stNz e.table != 0 && s.stNz e.table != s.stNb e.table, sp),
       (run && decide (3 ≤ c.actfn) && decide (c.actfn ≤ 4), sp),
       (e.react == 2 && (!(decide (first.code ≤ cU2)) || !fieldOp c.op ||
         alt.code != (if codeUnsigned first.code then cU8 else cS8) || alt.stab == first.stab), p.didx roYalt)]
     else [])

/-- Checks of the Field opcodes (R106, R109, R112, R128, R134, R135, R284, R301-R307). -/
def State.fieldChecks (s : State) (x : LoadCtx) : List (Bool × Nat) :=
  let p := x.p
  let c := x.c
  let X := p.x
  let W := p.w
  let Y := p.y
  let ix := p.didx
  let (at_, wt) := modeTypes c.arith
  let nax := if c.op == opGemm then (if W.trans then 0 else 1) else if c.op == opConv then 3 else 2
  let sig (r : Nat) (code : Nat) : Bool × Nat := (p.has r && (p.d r).code != code, ix r)
  let axisBad := if c.op == opGemm then !X.spt && decide (X.saxis = if X.trans then 1 else 0)
    else if c.op == opConv then !X.spt && decide (X.saxis ≠ 3)
    else !X.spt && decide (X.saxis < 2)
  let outlier (b : Nat) : Bool :=
    let r := s.memBytes ((p.d roOlist).addr + 64 * b) 64
    let n := fld r 0 1
    let ch := ((r.drop 8).take (min 32 n)).map fun v => v.toNat
    decide (32 < n) || decide (fld r 1 7 ≠ 0) || decide (leNat (r.drop (8 + min 32 n)) ≠ 0) || ch.any (fun v => decide (127 < v)) ||
      decide (ch.eraseDups.length ≠ ch.length)
  let zp8 := (List.range X.nz).all fun i => decide (s.zpAt X.stab X.nb 4 i = 8)
  let g := p.geo
  if fieldOp c.op then
    [(!at_.contains X.code, ix roX), (!wt.contains W.code, ix roW), (axisBad, ix roX),
     (!W.spt && (decide (W.saxis ≠ nax) || decide (W.sblk ≠ 0)), ix roW),
     (codeUnsigned W.code && W.zkind == 3 && decide (W.caxis ≠ nax), ix roW),
     sig roBias cS32, sig roWwino cS8, sig roOx cS8, sig roOw cS8,
     (p.has roOlist && !(c.arith == 0 || c.arith == 5), ix roOlist),
     (p.has roOlist && decide (c.smul = 0), nd),
     (p.has roOlist && (List.range (ceilDiv p.kDepth 128)).any outlier, ix roOlist),
     (c.op == opConv && decide (1 < g.s2d) && (decide (4 < X.ext 2) || decide (1 < g.g)), ix roX),
     (c.op == opConv && decide (1 < g.d2s) && (!(Y.spt || Y.saxis == 3 || !codeScaled Y.code) ||
       (codeUnsigned Y.code && Y.zkind != 1)), ix roY),
     (p.wino && !(g.kh == 3 && g.kw == 3 && g.sh == 1 && g.sw == 1 && g.dh == 1 && g.dw == 1 && c.arith == 0 &&
       (X.code == cS4 || (X.code == cU4 && zp8)) && g.s2d == 1 && !p.has roOlist && decide (16 * W.ext 2 ≤ 8192)), ix roWwino),
     (p.wino && !(p.d roWwino).spt && decide ((p.d roWwino).saxis ≠ 2 ∨ (p.d roWwino).sblk ≠ 0), ix roWwino)]
  else if c.op == opPool || c.op == opBoxpool then
    let narrow (t : Desc) : Bool := t.code == cS4 || t.code == cU4 || t.code == cS8 || t.code == cU8
    let axes (t : Desc) : Bool := !codeScaled t.code || t.spt || decide (2 ≤ t.saxis)
    [(!axes X, ix roX), (!axes Y, ix roY),
     (c.op == opPool && !narrow X, ix roX), (c.op == opPool && !narrow Y, ix roY),
     (c.op == opPool && !bitOf (c.im 47) 0 && (X.code != Y.code || X.zkind != Y.zkind || X.stab != Y.stab), ix roY)]
  else []

/-- A stored zero point of a tensor is not 0. -/
def State.zpStored (s : State) (t : Desc) : Bool :=
  (List.range t.nz).any fun i => s.zpAt t.stab t.nb (codeBits t.code) i != 0

/-- Checks of COPY and OPTIM (R171, R172, R178, R440, R443). -/
def State.otherChecks (s : State) (x : LoadCtx) : List (Bool × Nat) :=
  let p := x.p
  let c := x.c
  let ix := p.didx
  let X := p.x
  let Y := p.y
  let shape (a b : Desc) : Bool := a.code != b.code || a.p != b.p || a.stab != b.stab
  if c.copyIs subCompress then
    let sl := (s.cbHeld (c.im 46 % 16) (c.im 44 2)).getD {}
    [(!Y.zifer || X.zifer || shape X Y || p.has roSprog || p.has roStatrec, ix roY),
     (sl.kind != (if c.im 41 = 0 then 1 else 2), nd), (c.im 41 == 0 && (sl.vlen != c.im 42 || sl.cbits != c.im 43), nd)]
  else if c.copyIs subExpand then [(!X.zifer || Y.zifer || shape X Y, ix roY)]
  else if c.op == opOptim then
    let m := s.memBytes (p.d roParam).addr 64
    let code (r : Nat) : Nat := (p.d r).code
    let blk (r : Nat) : Bool := let t := p.d r; codeScaled t.code && (t.spt || t.sblk != 5 || t.saxis != 0)
    let sg (k : Nat) : Nat := fld m k 1
    let gen := p.has roGenrec
    let rel (r : Nat) : Bool := p.has r && (p.d r).genrel != gen
    [(decide (1 < sg 0) || decide (3 < sg 1) || decide (fld m 6 2 ≠ 0) || decide (leNat (m.drop 46) ≠ 0), ix roParam),
     (!(sg 2 == cS4 || sg 2 == cS8) || (sg 0 == 1 && !(sg 3 == cU4 || sg 3 == cU8)) || !(sg 4 == cBf16 || sg 4 == cS8) ||
       !(sg 5 == cS4 || sg 5 == cS2), ix roParam),
     (code roMom != sg 2 || blk roMom, ix roMom), (p.has roSmom && (code roSmom != sg 3 || blk roSmom), ix roSmom),
     (code roMaster != sg 4 || blk roMaster, ix roMaster),
     (code roWork != sg 5 || (!(p.d roWork).spt && (p.d roWork).sblk != 0) || (p.d roWork).spt, ix roWork),
     (!(code roGrad == cS4 || code roGrad == cS8), ix roGrad),
     (p.has roSmom && s.zpStored (p.d roSmom), ix roSmom),
     ((decide (fld m 36 4 = 0) || decide (fld m 40 6 = 0)) != gen || (gen && decide (fld m 36 4 ≠ 0 ∨ fld m 40 6 ≠ 0)), ix roParam),
     (rel roMom || rel roSmom || rel roMaster || rel roWork || (!gen && (p.d roGrad).genrel), ix roGenrec)]
  else []

/-- An exponent table is legal (R417, R418). -/
def State.expTableBad (s : State) (a : Nat) : Bool :=
  let es := (List.range 32).map fun t => leNat (s.memBytes (a + 64 + 2 * t) 2)
  let len (v : Nat) : Nat := bitsOf v 11 8
  let used := es.filter fun v => decide (0 < len v)
  let plain := (used.filter fun v => !bitOf v 15).map fun v => v % 256
  decide ((used.filter fun v => bitOf v 15).length ≠ 1) || decide (plain.eraseDups.length ≠ plain.length) ||
  decide (4096 < (used.foldl (fun t v => t + 2 ^ (12 - min 12 (len v))) 0)) || es.any (fun v => decide (bitsOf v 14 12 ≠ 0) || decide (12 < len v))

/-- A codebook's header and EXP table are legal (R409, R415, R418). -/
def State.cbookBad (s : State) (a : Nat) : Bool :=
  let h := s.memBytes a 64
  let kind := fld h 1 1
  let vlen := fld h 2 1
  let cbits := fld h 3 1
  let ec := fld h 4 1
  decide (fld h 0 1 ≠ 1) || decide (fld h 5 3 ≠ 0) || decide (leNat (h.drop 12) ≠ 0) || decide (15 < ec) ||
  (if kind = 1 then !(vlen == 4 || vlen == 8 || vlen == 16) || !(cbits == 4 || cbits == 8 || cbits == 12) || !codeScaled ec ||
      decide (vlen * codeBits ec ≤ cbits)
   else if kind = 2 then decide (vlen ≠ 0 ∨ cbits ≠ 0) || ec != cBf16 || s.expTableBad a
   else true)

def State.step7 (s : State) (x : LoadCtx) : Option Chk :=
  failIf stFormat 7 (s.roleChecks x ++
    ((x.p.idxed.zip (s.rawDescs x.c)).map fun (t, raw) => (s.descBad x.p raw t.2, t.1)) ++
    [(x.c.immBad x.p, nd), (s.tableBad x, nd)] ++ s.sieveChecks x ++ s.fieldChecks x ++ s.otherChecks x ++
    [(x.c.op == opCodebook && s.cbookBad (x.p.d roCbook).addr, x.p.didx roCbook)])

/-! ## Step 8: alignment -/

def State.step8 (s : State) (x : LoadCtx) : Option Chk :=
  let c := x.c
  let gr := (x.p.d roGenrec).addr
  failIf stAlign 8 ([(decide (x.list % 64 ≠ 0), nd)] ++
    (x.p.idxed.map fun (i, t) =>
      let m := if t.zifer then 4096 else if !objectRole t.role then 64
        else if t.role = roActtab ∨ t.role = roSprog ∨ t.role = roParam ∨ t.role = roCbook then 64
        else if t.role = roWrec then 16 else if t.role = roBoxes then 32 else 1
      (decide (t.addr % m ≠ 0) || (!objectRole t.role && decide (t.stab % 64 ≠ 0)), i)) ++
    [(x.p.has roSprog && decide ((s.sprog (x.p.d roSprog).addr c.pentry).table % 64 ≠ 0), x.p.didx roSprog),
     (x.p.has roGenrec && decide (leNat (s.memBytes (gr + 24) 4) % 4096 ≠ 0), x.p.didx roGenrec),
     (tiledOp c.op && !c.auto && decide (c.loop % 16 ≠ 0), nd),
     (c.op == opLoadb && decide (c.im 42 6 % 64 ≠ 0), nd)])

/-! ## Step 9: extents -/

/-- The dimension that carries each stored dimension of an input, for R231; none where R288 or the format exempts it. -/
def Plan.inDims (p : Plan) (r : Nat) : List (Option Nat) :=
  let c := p.cmd
  let t := p.d r
  if c.op == opGemm then
    (if r = roX then (if t.trans then [some dM, some dK] else [some dK, some dM])
     else if r = roW then (if t.trans then [some dN, some dK] else [some dK, some dN])
     else if r = roOx then [none, some dM] else if r = roOw then [none, some dN] else [some dN])
  else if c.op == opConv then
    (if r = roX then [none, none, none, some dB]
     else if r = roW then [some dKw, some dKh, some dC, some dN]
     else if r = roWwino then [none, none, some dN]
     else if r = roBias then [some dN] else if r = roOw then [none, some dN] else [])
  else if c.op == opDwconv then
    (if r = roX then [none, none, some dC, some dB] else if r = roW then [some dKw, some dKh, some dC] else [some dC])
  else if c.op == opPool then [none, none, some dC, some dB]
  else if c.op == opBoxpool then [none, none, some dC]
  else (List.range 4).map fun d => if c.bcast d && r = roX2 then none else some (ewDim d)

/-- The extents an output must hold (R232, R305). -/
def Plan.outDims (p : Plan) : List Nat :=
  let c := p.cmd
  let f := p.geo.d2s
  if c.op == opGemm then [p.E dN, p.E dM]
  else if c.op == opConv then [p.E dW * f, p.E dH * f, p.w.ext 3 / (f * f), p.E dB]
  else if c.op == opDwconv || c.op == opPool then [p.E dW, p.E dH, p.E dC, p.E dB]
  else if c.op == opBoxpool then [c.im 41, c.im 40, p.E dC, p.E dM]
  else if c.copyIs subTranspose then [p.E dH, p.E dW, p.E dC, p.E dB]
  else (List.range 4).map fun d => if c.axis d then 1 else p.E (ewDim d)

/-- The extent rules of the image opcodes (R282, R283, R285, R286, R291, R304, R305, R321); `boxes` is the box count. -/
def Plan.imageChecks (p : Plan) (boxes : Nat) : List (Bool × Nat) :=
  let c := p.cmd
  let g := p.geo
  let X := p.x
  let W := p.w
  let Y := p.y
  let ix := p.didx
  let named (d v : Nat) : Bool × Nat := (!(p.loop.naming d).isEmpty && p.E d != v, nd)
  let reach : Bool :=
    let rh := highReach g.oh g.sh g.pt g.dh g.kh g.ih
    let rw := highReach g.ow g.sw g.pl g.dw g.kw g.iw
    let lim (i : Nat) : Int := if g.mode = 2 then (i : Int) - 1 else i
    (g.mode == 2 || g.mode == 4) && (decide (lim g.ih < g.pt) || decide (lim g.ih < rh) || decide (lim g.iw < g.pl) || decide (lim g.iw < rw))
  let flat (r from_ : Nat) : Bool × Nat := (p.has r && (List.range 4).any fun d => decide (from_ ≤ d) && (p.d r).ext d != 1, ix r)
  let image := [(decide (g.ohI ≤ 0) || decide (g.owI ≤ 0), ix roX), (reach, ix roX), named dH g.oh, named dW g.ow, named dB (X.ext 3)]
  if c.op == opConv then
    [(decide (X.ext 0 % g.s2d ≠ 0) || decide (X.ext 1 % g.s2d ≠ 0), ix roX),
     (decide (W.ext 2 = 0) || decide (g.ic % max 1 (W.ext 2) ≠ 0) || decide (g.ic < W.ext 2), ix roW), (decide (W.ext 3 % g.g ≠ 0), ix roW),
     (W.ext 0 != g.kw || W.ext 1 != g.kh, ix roW),
     (p.has roWwino && ((p.d roWwino).ext 0 != 16 || (p.d roWwino).ext 1 != W.ext 2 || (p.d roWwino).ext 2 != W.ext 3), ix roWwino),
     (p.has roBias && decide ((p.d roBias).ext 0 < W.ext 3), ix roBias),
     (p.has roOx && decide ((p.d roOx).ext 1 < g.ow * g.oh * X.ext 3), ix roOx),
     (p.has roOw && decide ((p.d roOw).ext 1 < W.ext 3), ix roOw),
     (decide (X.ext 3 ≠ Y.ext 3), ix roY), flat roWwino 3, flat roBias 1] ++ image ++
    [named dN (W.ext 3 / g.g), named dG g.g, (decide (W.ext 3 % (g.d2s * g.d2s) ≠ 0), ix roW)]
  else if c.op == opDwconv then
    [(W.ext 2 != X.ext 2 || W.ext 0 != g.kw || W.ext 1 != g.kh, ix roW), flat roW 3, flat roBias 1] ++ image ++ [named dC (X.ext 2)]
  else if c.op == opPool then image ++ [named dC (X.ext 2)]
  else if c.op == opBoxpool then [(decide (p.E dM = 0), nd), named dM boxes, named dC (X.ext 2)]
  else []

/-- Step 9 up to the SHAPE checks. -/
def State.step9a (s : State) (x : LoadCtx) : Option Chk :=
  let p := x.p
  let c := x.c
  let k := p.kDepth
  let levels := if p.lin.isSome then [] else p.loop.levels
  let nest := p.loop.pairsNaming.any fun q => decide (q.2.tile < q.1.bound)
  let image := c.op == opConv || c.op == opDwconv || c.op == opPool || c.op == opBoxpool
  let reads := p.idxed.map fun (i, t) =>
    (c.readsRole t.role && !p.lin.isSome && ((List.range 4).zip (p.inDims t.role)).any fun d =>
      match d.2 with
      | some dim => decide (t.ext d.1 < p.readExt dim)
      | none => false, i)
  let writes := p.idxed.map fun (i, t) =>
    (tiledOp c.op && !p.lin.isSome && (t.role == roY || t.role == roYalt || (c.op == opOptim && !objectRole t.role)) &&
      ((List.range 4).zip p.outDims).any fun d => decide (t.ext d.1 < d.2), i)
  let extra (r d v : Nat) : Bool × Nat := (p.has r && (p.d r).ext d != v, p.didx r)
  let bound := (List.range 4).any fun d => c.bcast d && (p.d roX2).ext d != 1
  failIf stShape 9 (
    (p.idxed.map fun (i, t) => (!objectRole t.role && (List.range 4).any fun d => decide (t.ext d = 0), i)) ++
    [(c.op == opBoxpool && decide (boxCount c x.slots = 0), nd)] ++
    (if image then p.imageChecks (boxCount c x.slots) else []) ++
    [(levels.any fun l => decide (l.bound = 0) || decide (2 ^ 24 ≤ l.bound), nd), (!p.lin.isSome && nest, nd)] ++
    (if p.has roOx then [extra roOx 0 (32 * ceilDiv k 128), extra roOw 0 (32 * ceilDiv k 128)] else []) ++
    reads ++ writes ++
    [(bound, p.didx roX2),
     (c.op == opReduce && (List.range 4).any fun d => c.axis d && p.y.ext d != 1, p.didx roY),
     (s.progOf p == none && p.has roSprog, p.didx roSprog)])

/-- The FORMAT cases of step 9 (R138, R403). -/
def State.step9b (s : State) (x : LoadCtx) : Option Chk :=
  failIf stFormat 9 (x.p.idxed.map fun (i, t) =>
    (!objectRole t.role &&
      ((codeScaled t.code && (s.stNb t.stab != t.nb || s.stNz t.stab != t.nz || decide (1048576 < t.nb) || decide (1048576 < t.nz))) ||
       (t.zifer && x.c.readsRole t.role && (s.zhdr t.addr).ulen != t.len)), i))

/-! ## Step 10: regions and windows -/

/-- A window open to this device's engines that holds a range of an aperture (R44, R348). -/
def State.openAt (s : State) (a n : Nat) : Option (Nat × Nat) :=
  match inAperture a n with
  | none => none
  | some (e, o) => ((List.range 8).find? fun w =>
      let x := s.window e w
      x.st == .opn && x.engmask != 0 && decide (x.off.toNat ≤ o) && decide (o + n ≤ x.off.toNat + x.len.toNat)).map fun w => (e, w)

/-- The largest footprint among the other commands past step 11 (R349): those that passed their check, and those held at step 14. -/
def State.maxFoot (s : State) (e : Nat) : Nat :=
  (s.holders e).foldl (fun m r => max m r.2.foot) 0

/-- Step 10 (R42-R44, R180, R349, R351, R352, R359, R362). Windows are open to engines: STATREC and the tables, which the Reeve writes, find
none (log 102). R352 comes before the conditions of R349 (log 103). -/
def State.step10 (s : State) (x : LoadCtx) : Option Chk :=
  let p := x.p
  let c := x.c
  let adr := x.list + 64 * x.cidx
  let ins := (s.inputs p adr).filter fun r => decide (0 < r.n)
  let tabs := (p.idxed.map fun (i, t) => if objectRole t.role then [] else t.tableRange i).flatten ++ s.tableOutputs p
  let outs := p.outputs.filter fun r => decide (0 < r.n)
  let apIn (r : Rng) : Bool := (inAperture r.a r.n).isSome
  let okIn (r : Rng) : Bool := inDram r.a r.n || inFlash r.a r.n
  let gr := (p.d roGenrec).addr
  let slot := leNat (s.memBytes (gr + 24) 4)
  let rel := p.ds.any fun t => t.genrel && decide ((s.rawDescs c).any fun r => r.role == t.role && decide (slot < r.addr + t.len))
  let is (r : Nat) (i : Nat) : Bool := p.has r && i == p.didx r
  let eng := c.im 40
  let win := c.im 41
  let wx := s.window eng win
  let off := c.im 44 4
  let len := c.im 48 4
  (failIf stCapacity 10 (
    ((ins.map fun r => (!okIn r && !apIn r, r.i)) ++ (tabs.map fun r => (!inDram r.a r.n && !apIn r, r.i)) ++
      (outs.map fun r => (!inDram r.a r.n && (!apIn r || is roWrec r.i), r.i))) ++
    [(p.has roGenrec && ((!inDram gr 64 && (inAperture gr 64).isNone) || rel), p.didx roGenrec)])).or
  ((failIf stFenced 10 [(c.op == opWopen && (s.eng eng).fenced, nd),
      (c.op == opWclose && wx.st == .closed && wx.lost && wx.owner.toNat == x.q, nd),
      (c.op == opScrub && (List.range 24).any fun n => bitOf (c.im 40 3) n && (s.eng n).fenced, nd)]).or
  ((failIf stWindow 10 ((ins.map fun r => (apIn r, r.i)) ++ (tabs.map fun r => (apIn r, r.i)) ++
      (outs.map fun r => (apIn r && (is roStatrec r.i || (s.openAt r.a r.n).isNone), r.i)) ++
      [(p.has roGenrec && (inAperture gr 64).isSome, p.didx roGenrec), (c.op == opWopen && (wx.st != .closed || decide (off % 64 ≠ 0) || decide (len % 64 ≠ 0) || decide (len < 64) ||
          decide (barnSize < off + len) || ((List.range 8).any fun w =>
            let y := s.window eng w
            y.st != .closed && decide (off < y.off.toNat + y.len.toNat) && decide (y.off.toNat < off + len)) ||
          (decide (c.im 52 3 = 0) && decide (c.im 56 8 = 0))), nd),
       (c.op == opWclose && (wx.st != .opn || wx.owner.toNat != x.q), nd),
       (c.op == opSend && (decide (c.im 40 = s.dev.id.toNat) || !(s.peer (c.im 40)).established), nd)])).or
  (failIf stCapacity 10 [(c.op == opWopen && decide (6291456 < s.windowsOn eng + len + s.maxFoot x.e), nd)])))

/-! ## Steps 11 to 13 -/

/-- Step 11 (R97, R230, R294, R301, R303, R326, R338, R383). -/
def State.step11 (s : State) (x : LoadCtx) : Option Chk :=
  let p := x.p
  let c := x.c
  let beyond (n m : Nat) : Bool := decide (n = 0) || decide (m < n)
  let field := fieldOp c.op && (beyond p.mt 512 || beyond p.nt 512 || beyond p.kDepth 8192)
  let image := (c.op == opConv || c.op == opDwconv || c.op == opPool) &&
    (decide (64 < p.tileExt dH) || beyond p.mt 512 || beyond p.nt 512)
  failIf stCapacity 11 [(tiledOp c.op && (field || image || (c.op == opDwconv && decide (64 < p.passes)) ||
    (c.op == opBoxpool && (beyond p.mt 512 || beyond p.nt 512)) || decide (6291456 < p.footprint + s.wmax) ||
    decide (256 < s.progLen p)), nd)]

/-- FPT of a SEND (R480, R551). -/
def State.sendFpt (s : State) (dev : Nat) : Nat := ceilDiv 65536 (max 1 (s.pairPsize dev))

def State.step12 (s : State) (x : LoadCtx) : Option Chk :=
  let c := x.c
  failIf stCount 12 [(tiledOp c.op && decide (2 ^ 24 < x.p.tcount), nd),
    (c.op == opBoxpool && decide (4096 < boxCount c x.slots), nd),
    (c.op == opLoadb && decide (16 < c.im 40 + c.im 41), nd),
    (c.op == opSend && decide (16384 < x.p.tcount * s.sendFpt (c.im 40)), nd)]

def State.step13 (s : State) (x : LoadCtx) : Option Chk :=
  (s.aliasOf x.p (x.list + 64 * x.cidx)).map fun i => .fail stAlias 13 i 0

/-! ## Step 14: interlocks -/

/-- The lowest SEND number to a device not yet answered (R552). -/
def SendTx.lowest (t : SendTx) : Nat := t.out.foldl (fun m o => min m o.ssn.toNat) t.next.toNat

/-- Tiles of a SEND's slot whose frames have all left. -/
def State.sentTiles (s : State) (i : Nat) : List Nat :=
  s.engines.foldl (fun acc g => acc ++ (g.2.claims.filter fun k => k.slot == i && k.wrote).map fun k => k.tile)
    (s.slot i).doneTiles

/-- The lowest number not answered among those reserved to a device, counting the numbers of commands still to send. -/
def State.sendLow (s : State) (dev : Nat) : Nat :=
  s.runs.foldl (fun m r =>
    if r.2.phase.started && (s.job r.1).fpt != 0 && (cmdOf (s.cmdBytes r.1)).im 40 == dev then
      let sent := match s.slotOf r.1 with
        | some i => s.sentTiles i
        | none => []
      let first := ((List.range r.2.tcount).find? fun t => !sent.contains t).getD r.2.tcount
      min m ((s.job r.1).sendBase.toNat + first * (s.job r.1).fpt)
    else m) (s.stx dev).lowest

def State.step14 (s : State) (x : LoadCtx) : Bool :=
  let c := x.c
  let ad := s.adaptsOf x.p
  let rd := s.readsOf x.p
  (s.holders x.e).any (fun r => r.2.adapts.any (fun a => ad.contains a || rd.contains a) || r.2.reads.any fun a => ad.contains a) ||
  (c.op == opCodebook && (s.cbAny (c.im 40 % 16) (c.im 42 2)).isNone &&
    (s.cbSlot (c.im 40 % 16) 0).st != .empty && (s.cbSlot (c.im 40 % 16) 1).st != .empty) ||
  (c.op == opSend && decide (s.sendLow (c.im 40) + 16384 < (s.stx (c.im 40)).next.toNat + x.p.tcount * s.sendFpt (c.im 40)))

/-! ## The whole check -/

/-- What the loader sees of the command at CIDX of a job. -/
def State.loadCtx (s : State) (e : Nat) : LoadCtx :=
  let x := s.entry e
  let raw := s.cmdBytes e
  let c := cmdOf raw
  let slots := (s.job e).bslots
  let g := ((s.rawDescs c).find? fun t => t.role == roGenrec).map fun t => s.genSlots t.addr
  let p := s.planWith c slots (g.getD (0, 0)) (s.job e).rerunPhase (if c.op == opBoxpool then s.boxesPerTile c slots else 0)
  { e := e, q := x.queue.toNat, cidx := x.cidx.toNat, list := x.list.toNat, raw := raw, c := c, p := p, slots := slots }

/-- R242 from step 5 on (R244). -/
def State.checkFrom5 (s : State) (x : LoadCtx) : Chk :=
  let fails := s.step5 x <|> s.step6 x <|> s.step7 x <|> s.step8 x <|> s.step9a x <|> s.step9b x <|> s.step10 x <|> s.step11 x <|>
    s.step12 x <|> s.step13 x
  match fails with
  | some f => f
  | none => if s.step14 x then .wait else .pass

/-- R242 from step 1. -/
def State.checkAll (s : State) (x : LoadCtx) : Chk :=
  match s.step1 x <|> s.step2 x <|> s.step3 x <|> s.step4 x with
  | some f => f
  | none => s.checkFrom5 x

/-- The fetches of step 1 (R19, R24, R365): the entry, the descriptors and the loop table. Answers the channel of one that failed finally. -/
def State.fetchCheck (s : State) (x : LoadCtx) : Option Nat × State :=
  let r1 := s.fabricRead clsControl (x.list + 64 * x.cidx) 64
  let r2 := if x.c.ndesc = 0 then (none, r1.2) else r1.2.fabricRead clsControl x.c.desc (32 * min 12 x.c.ndesc)
  let r3 := if tiledOp x.c.op && !x.c.auto then r2.2.fabricRead clsControl x.c.loop (16 + 16 * x.p.loop.levels.length) else (none, r2.2)
  (r1.1.or (r2.1.or r3.1), r3.2)

/-- The objects and table headers that the later steps look at, as the Reeve reads them. -/
def State.readControls (s : State) (x : LoadCtx) : State :=
  forEach x.p.ds (fun t s =>
    if t.role = roBoxes ∨ t.role = roLtab ∨ t.role = roWrec ∨ t.role = roStatrec then s
    else if t.role = roGenrec then s.readBy clsControl t.addr 64
    else if objectRole t.role then s.readBy clsControl t.addr (min 4096 (s.objectLen x.p t))
    else if t.stab = 0 then s else s.readBy clsControl t.stab 64) s

end Sys2Proof.Machine
end

