-- ==== Sys2Proof/Machine/Windows.lean ====
section
/-! DEFINITION. Barn windows and the scrubber (R343, R347-R363). -/

namespace Sys2Proof.Machine

/-! ## Window writes (R354-R358) -/

/-- How a window answers a write. -/
inductive WinAns where
  | accepted
  | refused
  | stale
  | fenced
deriving DecidableEq, Repr

/-- The tests of R354, in order; `allowed` is the writer's mask bit. An empty write is decided without the fourth. -/
def Window.admits (w : Window) (wepoch : BitVec 16) (allowed : Bool) (off n : Nat) : Bool :=
  w.st == .opn && w.wepoch == wepoch && allowed &&
    (n == 0 || (decide (w.off.toNat ≤ off) && decide (off + n ≤ w.off.toNat + w.len.toNat)))

/-- Bytes land in a window through port 6. An armed BARN_ECC injection for the engine inverts check bits of the words
written (R594, R595). -/
def State.landWindow (s : State) (eng win off : Nat) (data : List Byte) : State :=
  let s := s.modEng eng fun e => { e with barn := e.barn.put off data }
  let words := if data.isEmpty then 0 else (off + data.length - 1) / 8 - off / 8 + 1
  let h := s.injHits 1 eng words
  let bits := if s.bell.injBits then 2 else 1
  let s := if h = 0 then s else
    (s.modEng eng fun e => { e with barn := { e.barn with
      bad := (List.range h).foldl (fun t i => Tab.set 0 t (off / 8 + i) bits) e.barn.bad } }).useInj h
  s.bump 4 (8 * eng + win) 0 data.length

/-- A window write: FENCED of a fenced engine (R362), the tests of R354, and the epoch filter of R357, which `stale` gives. -/
def State.windowWrite (s : State) (eng win : Nat) (wepoch : BitVec 16) (allowed stale : Bool) (off : Nat) (data : List Byte) :
    WinAns × State :=
  let i := 8 * eng + win
  if (s.eng eng).fenced then (.fenced, s.bump 4 i 3 1)
  else if !(s.window eng win).admits wepoch allowed off data.length then (.refused, s.bump 4 i 1 1)
  else if stale then (.stale, s.bump 4 i 2 1)
  else (.accepted, s.landWindow eng win off data)

/-- WINDOW of a local write completes its command with WINDOW unless TOLERANT is set, which only COPY and SEND admit (R198, R355). -/
def State.windowRefused (s : State) (slot : Nat) (epoch : BitVec 16) : State :=
  let sl := s.slot slot
  let c := cmdOf (s.cmdBytes sl.entry.val)
  if sl.used && sl.epoch == epoch && !(c.tolerant && (c.op == opCopy || c.op == opSend)) then s.failSlot slot stWindow else s

/-- The tile of a slot and epoch on an engine has issued a write (R267). -/
def State.markWrote (s : State) (n slot : Nat) (epoch : BitVec 16) : State :=
  s.modEng n fun e => { e with claims := e.claims.map fun c =>
    if c.slot == slot && c.epoch == epoch && c.phase == .drain then { c with wrote := true } else c }

/-- An engine issues window writes for a tile in DRAIN alone (R278), and those of a tile it has discarded may still be under way. -/
def Engine.writesFor (e : Engine) (slot : Nat) (epoch : BitVec 16) : Bool :=
  (e.claims.any fun c => c.slot == slot && c.epoch == epoch && c.phase == .drain) || e.late.any fun w => w.2.1 == slot && w.2.2 == epoch

/-- WINDOW_WRITE. A write of a fenced engine is dropped at its port (R31). -/
def execWindowWrite (w : WinWrite) (s : State) : Host.Outcome State Fault Refusal :=
  let src := w.srcEng.val
  let eng := w.dstEng.val
  let win := w.win.val
  if (s.eng src).fenced || !(s.eng src).writesFor w.slot.val w.epoch then done s
  else
    let x := s.window eng win
    let r := s.windowWrite eng win w.wepoch (x.engmask.getLsbD src) (s.staleWrite w.slot.val w.epoch) w.off.toNat w.data
    let s := r.2
    done (match r.1 with
      | .accepted => s.markWrote src w.slot.val w.epoch
      | .stale => s.markWrote src w.slot.val w.epoch
      | .refused => s.windowRefused w.slot.val w.epoch
      | .fenced =>
        match (s.eng src).claims.find? (fun c => c.slot == w.slot.val && c.epoch == w.epoch) with
        | some c => s.failTile src c.slot c.tile 0x0D
        | none => s)

/-! ## Closing (R359, R360) -/

/-- The home of a Barn offset. -/
def winHome (eng off : Nat) : Nat := eng * 0x1000000 + off

/-- The copy of a window begins (R359 step 3): it shares the engine's credits with its tiles, how many it holds is open. -/
def State.beginCopy (s : State) (eng : Nat) : State :=
  let e := s.eng eng
  (s.setEng eng { e with copyOut := e.copyOut + s.free % (e.credits + 1) }).used

/-- The copy of a window to its home, class NOALLOC and epoch 0 (R359 step 3, R360, R377). A word that reads poisoned is a write that fails
finally (R393), so the copy of its 64-byte line is not acknowledged. Answers whether every line is. -/
def State.copyHome (s : State) (eng win : Nat) : Bool × State :=
  let x := s.window eng win
  let b := (s.eng eng).barn
  let off := x.off.toNat
  let bad := b.badIn off x.len.toNat
  let poison (l : Nat) : Bool := bad.any fun w => w.2 ≠ 1 && 8 * w.1 / 64 == off / 64 + l
  let lines := List.range (x.len.toNat / 64)
  let s := forEach (lines.filter fun l => !poison l) (fun l s =>
    s.fabricWrite 3 (winHome eng (off + 64 * l)) ((List.range 64).map fun i => b.byte (off + 64 * l + i))) s
  let s := s.bump 0 eng 26 ((lines.filter fun l => !poison l).length)
  (lines.all fun l => !poison l, s.checkWords eng bad)

/-- The copies of an engine that go on hold credits; when the last one ends they are free. -/
def State.endCopy (s : State) (eng : Nat) : State :=
  if (List.range 8).any fun w => (s.window eng w).st == .closing then s else s.modEng eng fun e => { e with copyOut := 0 }

/-! ## Scrubs (R343, R347) -/

/-- Clear every Stook entry to VALUE 0, RES 0, SAT 0 and valid parity. -/
def State.clearStook (s : State) (n : Nat) : State := s.modEng n fun e => { e with stook := [] }

/-- Words with wrong check bits in a line of a Barn: those whose place is known, and, in a line outside the windows, at most one word of the
tile's buffers, since where they lie is the Plough's own (R339). -/
def State.badInLine (s : State) (n line : Nat) : List (Nat × Nat) :=
  let b := (s.eng n).barn
  let tile := b.bad.filter fun w => decide (tileWord ≤ w.1)
  b.badIn (64 * line) 64 ++ (if outOf (s.windowRanges n) (64 * line) then ((tile[s.free % (tile.length + 1)]?).map fun w => [w]).getD [] else [])

/-- The engine's clocks run: in ACTIVE and during ENTERING, and in IDLE until its current tile has ended (R621, R623). -/
def State.engineClocked (s : State) (n : Nat) : Bool :=
  let e := s.eng n
  !e.islandOff && !e.fenced && !e.testing && !s.dev.halted && !s.pins.thermtrip &&
    (s.dev.pstate == psActive || s.dev.pstate == psEntering || (s.dev.pstate == psIdle && e.claims.any fun c => c.phase != .claimed))

/-- BARN_SCRUBBER: read and correct the next line through port 7 (R347). -/
def execBarnScrubber (eng : Fin 24) (s : State) : Host.Outcome State Fault Refusal :=
  let n := eng.val
  if !s.engineClocked n then done s
  else
    let pos := (s.eng n).scrubPos
    let s := (s.used.checkWords n (s.badInLine n pos)).bump 0 n 24 1
    done (s.modEng n fun g => { g with scrubPos := (pos + 1) % 98304 })

end Sys2Proof.Machine
end

