-- ==== Sys2Proof/Machine/Transfers.lean ====
section
/-! DEFINITION. Requests of the engines' transfer units and their answers (R19-R24, R388-R396), the Granary's accesses and
fills (R364-R373), and block expansion (R428-R436). -/

namespace Sys2Proof.Machine

/-! ## Reads (R20-R24, R388-R394) -/

/-- The data of a read arrives: of a request, or `k` compressed sectors of the Mill. `badTries` deliveries of the block fail their CRC, injected
failures added; five failures are final (R21-R23, R393), and a block that passes on a re-send is PORT_RESEND. -/
def State.readArrives (s : State) (n : Nat) (c : Claim) (req : Option Req) (k badTries : Nat) : State :=
  let bytes := match req with
    | some r => s.memBytes r.fa r.len
    | none => []
  let h := if badTries < 5 then failedTries bytes (s.injHits 5 n (5 - badTries)) else 0
  let tries := badTries + h
  let s := ((s.useInj h).bump 0 n 27 (min 4 tries)).modEng n fun e => match req with
    | some r => { e with outs := e.outs.erase r, todo := if e.outs.contains r then e.todo else e.todo.erase r }
    | none => { e with millOut := e.millOut - k }
  let desc := match req with
    | some r => r.desc
    | none => 0
  if 5 ≤ tries then s.failTile n c.slot c.tile 0x05 desc (decide (h ≠ 0))
  else
    let s := if tries = 0 then s else s.raise { source := 0x06, inst := n, inj := decide (h ≠ 0) }
    match req with
    | none => let s := s.bump 0 n 25 k; if c.failed then s else s.issueReads n
    | some r =>
      let g := s.fabricRead r.cls.toNat r.fa r.len
      match g.1 with
      | some ch => g.2.failTile n c.slot c.tile 0x19 ch true
      | none =>
        let s := (g.2.bump 0 n 25 k).landReq n c r
        if c.failed then s else s.issueReads n

/-- READ_DATA_ARRIVAL: the data is that of the oldest request of so many sectors, or the Mill's. Reads of a discarded tile complete into
discard (R394). A fenced engine's port drops every reply (R31). -/
def execReadDataArrival (eng : Fin 24) (sectors : Fin 5) (badTries : Fin 6) (s : State) : Host.Outcome State Fault Refusal :=
  let n := eng.val
  let k := sectors.val
  let e := s.eng n
  if e.fenced || s.dev.halted || k == 0 then done s
  else if e.discOut ≠ 0 then
    let k := min k e.discOut
    done ((s.modEng n fun e => { e with discOut := e.discOut - k }).bump 0 n 28 k)
  else
    let req := e.outs.find? fun r => r.sectors == k
    match e.inPhase .load with
    | none => done s
    | some c => done (if req.isNone && decide (e.millOut < k) then s else s.readArrives n c req k badTries.val)

/-! ## Writes (R354, R366, R375, R388) -/

/-- Bytes with some of their bits replaced. -/
def mergeBits (old data mask : List Byte) : List Byte :=
  (List.range data.length).map fun i =>
    let m := (mask[i]?).getD 0
    (((old[i]?).getD 0) &&& ~~~ m) ||| (((data[i]?).getD 0) &&& m)

/-- A write reaches its destination under a slot and epoch: a window decides under R354 and R357; a slice drops a stale one and counts it
(R33, R375), and DRAM takes the others. -/
def State.landWrite (s : State) (n slot tile : Nat) (epoch : BitVec 16) (w : WReq) : State :=
  match w.win with
  | some (eng, win, wep) =>
    let off := (w.fa - aperBase) % 0x1000000
    let old := (List.range w.data.length).map fun i => (s.eng eng).barn.byte (off + i)
    let r := s.windowWrite eng win wep ((s.window eng win).engmask.getLsbD n) (s.staleWrite slot epoch) off (mergeBits old w.data w.mask)
    match r.1 with
    | .accepted => r.2
    | .stale => r.2
    | .refused => r.2.windowRefused slot epoch
    | .fenced => r.2.failTile n slot tile 0x0D w.desc
  | none =>
    if s.staleWrite slot epoch then s.bump 2 (s.sliceFor w.fa) 4 1
    else s.fabricWrite w.cls.toNat w.fa (mergeBits (s.bytes w.fa w.data.length) w.data w.mask)

/-- Issue up to a number of writes while credits are free. The transfer unit reads them from the Barn, whose words are checked; poisoned data
for a write fails finally (R345, R346, R393). The tile has issued a write (R267). -/
def State.issueWrites (s : State) (n limit : Nat) : State :=
  let s := if (s.eng n).wtodo.isEmpty || limit = 0 then s else s.checkWords n ((s.eng n).barn.bad.filter fun w => decide (outWord ≤ w.1))
  let e := s.eng n
  let x := takeWrites e.credits (e.wtodo.take limit)
  if x.1.isEmpty || !(e.inPhase .drain).any fun c => !c.failed && !c.poisoned then s
  else s.setEng n { e with
    wouts := e.wouts ++ x.1, wtodo := x.2 ++ e.wtodo.drop limit
    claims := e.claims.map fun c => if c.phase == .drain then { c with wrote := true } else c }

/-- A write reaches its destination and is acknowledged to the engine (R366, R375, R390). -/
def State.writeAcked (s : State) (n slot tile : Nat) (epoch : BitVec 16) (w : WReq) : State :=
  (s.landWrite n slot tile epoch w).bump 0 n 26 (sectorsOf w.fa w.data.length)

/-- WRITE_ACK: a write is acknowledged, marked stale where a filter dropped it (R366, R375); its credit returns. The write is the oldest of so
many sectors, one of a discarded tile first; a window row of more is acknowledged as a whole (R354), by its last request. -/
def execWriteAck (eng : Fin 24) (sectors : Fin 5) (s : State) : Host.Outcome State Fault Refusal :=
  let n := eng.val
  let k := sectors.val
  let e := s.eng n
  let fits (w : WReq) : Bool := w.sectors == k || (w.win.isSome && k == 4 && decide (4 < w.sectors))
  if e.fenced || s.dev.halted then done s
  else
    match e.late.find? fun w => fits w.1 with
    | some w => done ((s.setEng n { e with late := e.late.erase w }).writeAcked n w.2.1 0 w.2.2 w.1)
    | none =>
      match e.inPhase .drain, e.wouts.find? fits with
      | some c, some w =>
        let s := (s.setEng n { e with wouts := e.wouts.erase w }).writeAcked n c.slot c.tile c.epoch w
        done (s.issueWrites n (s.eng n).wtodo.length)
      | _, _ => done s

/-- FENCED_ANSWER: the credit returns and the request fails finally (R390, R393). -/
def execFencedAnswer (eng : Fin 24) (isWrite : Bool) (sectors : Fin 5) (s : State) : Host.Outcome State Fault Refusal :=
  let n := eng.val
  let e := s.eng n
  if e.fenced || s.dev.halted then done s
  else if isWrite then
    match e.inPhase .drain, e.wouts.find? fun w => w.sectors == sectors.val with
    | some c, some w => done ((s.setEng n { e with wouts := e.wouts.erase w }).failTile n c.slot c.tile 0x0D w.desc)
    | _, _ => done s
  else
    match e.inPhase .load, e.outs.find? fun r => r.sectors == sectors.val with
    | some c, some r => done ((s.setEng n { e with outs := e.outs.erase r }).failTile n c.slot c.tile 0x0D r.desc)
    | _, _ => done s

/-! ## The Granary -/

/-- GRANARY_ACCESS to DRAM or flash (R365-R369, R371, R372). A read that finds all 64 trackers busy waits at the slice. -/
def execGranaryAccess (addr : Addr) (cls : BitVec 2) (acc : GAcc) (s : State) : Host.Outcome State Fault Refusal :=
  let a := addr.toNat
  if !(inDram a 1 || inFlash a 1) then done s
  else
    let sl := s.sliceFor a
    let set := setOf a
    let line := a / 128
    match acc with
    | .read =>
      let s := if ((s.slice sl).wayOf set line).isSome then s.checkLine sl set line else s
      let x := s.slice sl
      done (match x.wayOf set line with
        | some w => (s.setSlice sl (x.hit set w)).bump 2 sl 0 1
        | none =>
          if x.misses.any fun m => m.1 == line then
            (s.setSlice sl { x with misses := x.misses.map fun m => if m.1 == line then (m.1, m.2.1, m.2.2 + 1) else m }).bump 2 sl 2 1
          else if 64 ≤ x.misses.length then s.setSlice sl { x with waiting := x.waiting ++ [(line, cls.toNat)] }
          else (s.setSlice sl { x with misses := x.misses ++ [(line, cls.toNat, 1)] }).bump 2 sl 1 1)
    | .writeLine => done (s.touchLines cls.toNat (line * 128) 128)
    | .writePart => done (s.touchLines cls.toNat (line * 128) 8)

/-- GRANARY_FILL: the miss's read returns after `badReads` failing DRAM reads, injected ones added (R24); five are a DRAM CRC
fault. Which tile's request the miss serves is open: a tile in LOAD is taken, if there is one (log 19). A request that waited for the
tracker takes it, as a miss of its own (R369). -/
def execGranaryFill (addr : Addr) (badReads : Fin 6) (s : State) : Host.Outcome State Fault Refusal :=
  let a := addr.toNat
  let sl := s.sliceFor a
  let line := a / 128
  match (s.slice sl).misses.find? (fun m => m.1 == line) with
  | none => done s
  | some m =>
    let before := (s.slice sl).waiting.length
    let x := { s.slice sl with misses := (s.slice sl).misses.erase m }
    let y := x.track
    let s := (s.setSlice sl y).bump 2 sl 1 (y.misses.length - x.misses.length) |>.bump 2 sl 2 (before - y.waiting.length - (y.misses.length - x.misses.length))
    let ch := chanOf a
    let dram := inDram a 1
    let h := if dram && decide (badReads.val < 5) then s.injHits 6 ch (5 - badReads.val) else 0
    let s := s.useInj h
    let tries := if dram then badReads.val + h else 0
    let s := s.bump 3 ch 0 (min 4 tries)
    if 5 ≤ tries then
      let ns := (List.range 24).filter fun n => ((s.eng n).inPhase .load).isSome
      match ns[s.free % max 1 ns.length]? with
      | some n =>
        match (s.eng n).inPhase .load with
        | some c => done (s.used.failTile n c.slot c.tile 0x19 ch (decide (h ≠ 0)))
        | none => done s.used
      | none => done (s.used.raise { source := 0x19, inst := ch, detail := BitVec.ofNat 32 ch, inj := decide (h ≠ 0) })
    else done (s.fillLine sl line m.2.1)

/-! ## The Mill (R429-R436) -/

/-- What expanding one block of a row comes to. -/
inductive BlkRes where
  | good
  | crc
  | mismatch
  | dram (chan : Nat)
deriving DecidableEq, Repr

/-- Bytes of the lines that the Mill reads of a block at `b` of the table at `a`: the slot's geometry fixes them for VQ, the block's header for
EXP (R429). -/
def State.blockLen (s : State) (a b : Nat) : Nat :=
  let h := s.zhdr a
  let cb := (s.cbAny h.stream h.cgen).getD {}
  alignUp (20 + if h.kind = 1 then 32768 / max 1 (cb.vlen * codeBits cb.ecode) * cb.cbits / 8 else s.blockPlen b) 64

/-- The Mill reads a codebook into its store (R431); one whose entries fail their CRC is read once more (R433). Answers whether it fails
again, or the channel whose reads failed. -/
def State.loadBook (s : State) (n : Nat) (cb : CbSlot) : BlkRes × State :=
  let a := cb.caddr.toNat
  let len := 64 + s.cbLen a
  let r := s.fabricRead clsControl a len
  let s := r.2.bump 0 n 33 1
  match r.1 with
  | some ch => (.dram ch, s)
  | none =>
    if s.cbCrcOk a cb.ecrc.toNat then (.good, s)
    else
      let r := (s.dropLines a len).fabricRead clsControl a len
      (match r.1 with
        | some ch => .dram ch
        | none => .crc, (r.2.bump 0 n 33 1).bump 0 n 34 2)

/-- One block: kept, or read, checked and expanded, its codebook loaded first where the Mill does not hold it (R429-R434). -/
def State.millBlock (s : State) (n a i : Nat) : BlkRes × State :=
  let e := s.eng n
  if e.millKept.contains (a, i) then (.good, s.bump 0 n 30 1)
  else
    let h := s.zhdr a
    let key := (BitVec.ofNat 4 h.stream, BitVec.ofNat 16 h.cgen)
    let cb := (s.cbAny h.stream h.cgen).getD {}
    let book := if e.millBooks.contains key then (.good, s) else s.loadBook n cb
    let s := book.2
    if book.1 ≠ .good then book
    else
      let s := s.modEng n fun e => { e with millBooks := (key :: e.millBooks.erase key).take 2 }
      let b := s.blockAt a i
      let r := s.fabricRead 0 (a + 64 + 4 * i) 8
      let len := s.blockLen a b
      let q := r.2.fabricRead 0 b len
      let s := q.2.bump 0 n 31 (8 + len)
      if let some ch := r.1.or q.1 then (.dram ch, s)
      else if !s.blockCrcOk b then
        (.crc, ((((s.dropLines b len).fabricRead 0 b len).2.bump 0 n 34 2).bump 0 n 31 len))
      else if s.blockMismatch a i cb then (.mismatch, s.bump 0 n 35 1)
      else (.good, (s.modEng n fun e => { e with millKept := ((a, i) :: e.millKept).take 4 }).bump 0 n 29 1)

/-- The blocks of a row in order, up to the first that fails. -/
def State.millRow (s : State) (n a : Nat) : List Nat → BlkRes × Nat × State
  | [] => (.good, 0, s)
  | i :: l =>
    match s.millBlock n a i with
    | (.good, s) => s.millRow n a l
    | (r, s) => (r, i, s)

/-- The outputs of a command that has ended under R433 or R435 hold undefined bytes (R436; log 1). -/
def State.looseOutputs (s : State) (p : Plan) : State :=
  forEach (p.outputs.filter fun r => decide (r.i < p.ds.length) && !(r.i == p.didx roStatrec && p.has roStatrec)) (fun r s =>
    (match inAperture r.a r.n with
      | some (e, o) => s.modEng e fun g => { g with barn := { g.barn with unknown := (o, r.n, s.fresh) :: g.barn.unknown } }
      | none => s.write r.a ((List.range r.n).map fun i => Config.freeByte (s.fresh + i))).used r.n) s

/-- A command ends under R433 or R435, and the Bell is told. -/
def State.endZifer (s : State) (n : Nat) (c : Claim) (status : Nat) : State :=
  let p := s.planOf (s.slot c.slot).entry.val
  ((if s.liveClaim c then s.looseOutputs p else s).failSlot c.slot status).raise { source := 0x0C, inst := n, slot := some (Fin.ofNat 64 c.slot), tile := c.tile, epoch := c.epoch }

/-- A tile restarts from the start of its LOAD (R314, R435): no write has been issued, so no epoch changes. -/
def State.restartTile (s : State) (n : Nat) (c c' : Claim) : State :=
  let c' := { c' with phase := .load, computed := false, poisoned := false }
  (s.modEng n fun e => { e with
    millKept := [], discOut := e.discOut + readSectors e.outs + e.millOut
    claims := e.claims.map fun k => if k == c then c' else k }).beginLoad n c'

/-- The row `[x, x + len)` of the dense image behind the index table at `base` through the Mill: delivered to the tile's buffers, or one of
the ends of R433 and R435. -/
def State.expandRow (s : State) (n : Nat) (c : Claim) (p : Plan) (base x len : Nat) : State :=
  match s.millRow n base (blocksOfRun x len) with
  | (.good, _, s) =>
    let role := ((p.ds.find? fun t => t.zifer && t.addr == base && p.cmd.readsRole t.role).getD p.x).role
    let r : Req := { fa := bufAddr role x, len := len }
    ((s.landBytes n r.fa (s.reqBytes p r)).bump 0 n 32 len).modEng n fun e => { e with
      rows := e.rows.filter fun k => !(decide (r.fa ≤ k.fa) && decide (k.fa + k.len ≤ r.fa + r.len)) }
  | (.crc, _, s) => s.endZifer n c stCrc
  | (.dram ch, _, s) => s.failTile n c.slot c.tile 0x19 ch true
  | (.mismatch, i, s) =>
    if c.mism = 0 then
      let b := s.blockAt base i
      let s := (s.dropLines b (s.blockLen base b)).dropLines (base + 64 + 4 * i) 8
      s.restartTile n c { c with mism := 1 }
    else s.endZifer n c stSkew

/-- BLOCK_EXPAND for a row of an EXPAND transfer of the tile in LOAD (R428, R429). -/
def execBlockExpand (eng : Fin 24) (base : Addr) (x len : Word) (s : State) : Host.Outcome State Fault Refusal :=
  let n := eng.val
  if (s.eng n).fenced || s.dev.halted then done s
  else
    match (s.eng n).inPhase .load with
    | none => done s
    | some c =>
      let p := s.planOf (s.slot c.slot).entry.val
      let mine := s.liveClaim c &&
        p.ds.any fun t => t.zifer && t.addr == base.toNat && p.cmd.readsRole t.role && decide (x.toNat + len.toNat ≤ t.len)
      done (if !mine || c.failed then s else s.expandRow n c p base.toNat x.toNat len.toNat)

end Sys2Proof.Machine
end

