-- ==== Sys2Proof/Machine/Tiles.lean ====
section
/-! DEFINITION. Tiles through an engine: claims, LOAD, COMPUTE, DRAIN, DONE, and their acceptance by the Tally (R255-R280,
R464-R467, R551-R558). -/

namespace Sys2Proof.Machine

/-! ## Messages between the Tally and the engines (R38, R256, R261)

A crossing keeps issue order, so that each of these commands takes the oldest message of its direction, and does nothing where that is
another one. A halted device's engines stand (R576). -/

/-- AVAILABLE reaches an engine: one without an open claim claims (R261). -/
def execAvailable (eng : Fin 24) (s : State) : Host.Outcome State Fault Refusal :=
  let n := eng.val
  match (s.eng n).inq with
  | .available :: rest =>
    if s.dev.halted then done s
    else
      let e := s.eng n
      let s := s.setEng n { e with inq := rest, idle := e.idle && !e.claims.isEmpty }
      done (if e.claims.isEmpty then s.sendClaim n else s)
  | _ => done s

/-- TALLY_CLAIM: a claim on its way is served; one of an engine recorded as fenced is not (R257, R262). -/
def execTallyClaim (eng : Fin 24) (s : State) : Host.Outcome State Fault Refusal :=
  let n := eng.val
  match (s.eng n).outq with
  | .claim :: rest =>
    if s.dev.halted then done s
    else
      let s := s.modEng n fun e => { e with outq := rest }
      if (s.eng n).fenced then done s
      else
        let r := s.serveClaim eng
        done (r.2.modEng n fun e => { e with inq := e.inq ++ [.grant r.1] })
  | _ => done s

/-- GRANT: the answer of the Tally arrives (R256, R260, R261). -/
def execGrant (eng : Fin 24) (s : State) : Host.Outcome State Fault Refusal :=
  let n := eng.val
  match (s.eng n).inq with
  | .grant g :: rest =>
    if s.dev.halted then done s
    else
      match g with
      | none => done (s.modEng n fun e => { e with inq := rest, claiming := false, idle := true })
      | some g =>
        let e := s.eng n
        let cell := if e.claims.any fun c => c.cell == 0 then 1 else 0
        let direct := e.winoOff && (s.slot g.slot).used && !(s.slot g.slot).stopping && (s.planOf (s.slot g.slot).entry.val).wino
        let s := if e.claims.isEmpty then s.bumpFree 0 n 14 else s
        let s := s.modEng n fun e => { e with
          inq := rest, claiming := false, idle := false
          claims := e.claims ++ [{ slot := g.slot, tile := g.tile, epoch := g.epoch, cell := cell, direct := direct }] }
        done (State.nextTile 3 (s.bump 0 n 10 1) n)
  | _ => done s

/-! ## LOAD (R277) -/

/-- Every Zifer block that a tile reads can be expanded (R433, R434). -/
def State.blocksGood (s : State) (p : Plan) (tile : Nat) : Bool :=
  p.ds.all fun t => !(t.zifer && p.cmd.readsRole t.role) ||
    ((s.loadRuns p tile t).map fun r => blocksOfRun r.1 r.2).flatten.eraseDups.all fun i => s.blockGood t.addr i

/-- LOAD of a claim goes on. -/
def State.loadsStill (s : State) (n : Nat) (c : Claim) : Bool := ((s.eng n).inPhase .load).any fun k => k == c && !k.failed

/-- The reads of a tile that have not come yet, in order, and the rows the Mill has not delivered (R391, R432). -/
def State.restOfLoad (s : State) (n : Nat) (c : Claim) : State :=
  let p := s.planOf (s.slot c.slot).entry.val
  let e := s.eng n
  let s := forEach (e.outs ++ e.todo) (fun r s => if s.loadsStill n c then s.readArrives n c (some r) r.sectors 0 else s) s
  forEach (s.eng n).rows (fun r s =>
    if s.loadsStill n c && s.liveClaim c then s.expandRow n c p (p.d (r.fa / bufBase)).addr (r.fa % bufBase) r.len else s) s

/-- LOAD_END: the last read returns; COMPUTE begins. Reads that have not arrived yet do so now, each block checked and landed like any other.
A tile whose reads fail finally never ends its LOAD (R393, R432, R433). -/
def execLoadEnd (eng : Fin 24) (s : State) : Host.Outcome State Fault Refusal :=
  let n := eng.val
  match (s.eng n).inPhase .load with
  | none => done s
  | some c =>
    if c.failed || s.dev.halted then done s
    else
      let s := s.restOfLoad n c
      if !s.loadsStill n c || !((s.eng n).rows.isEmpty || !s.liveClaim c) then done s
      else
        let s := (s.bump 0 n 25 (s.eng n).millOut).bumpFree 0 n 11
        let s := if s.liveClaim c && (s.planOf (s.slot c.slot).entry.val).ds.any fun t => t.zifer then s.bumpFree 0 n 36 else s
        done (s.modEng n fun e => { e with
          outs := [], todo := [], rows := [], millOut := 0
          claims := e.claims.map fun k => if k == c then { k with phase := .compute } else k })

/-! ## SEND (R480, R551, R553) -/

/-- A tile's frames leave towards the destination device: frame `j` carries number base + t × FPT + j. -/
def State.sendTile (s : State) (n : Nat) (c : Claim) (e : Nat) (p : Plan) : State :=
  let j := s.job e
  let dst := p.cmd.im 40
  let v := s.view n
  let x := p.buffered.x
  (List.range j.fpt).foldl (fun s k =>
    let off := 65536 * c.tile + j.psize * k
    let last := min (65536 * (c.tile + 1)) x.len
    let data := (List.range (min j.psize (last - off))).map fun i => v.tensorByte x (off + i)
    let ssn : BitVec 48 := j.sendBase + BitVec.ofNat 48 (c.tile * j.fpt + k)
    let prm := leBytes 6 ssn.toNat ++ leBytes 1 (p.cmd.im 41) ++ leBytes 1 (p.cmd.im 42) ++ leBytes 2 (p.cmd.im 48 2) ++
      leBytes 4 (p.cmd.im 44 4 + off) ++ List.replicate 10 0
    let f := s.frameTo dst tySend prm data
    let t := s.stx dst
    let s := s.setStx dst { t with out := (t.out.filter fun o => o.ssn != ssn) ++
      [{ ssn := ssn, eng := Fin.ofNat 24 n, slot := c.slot, tile := c.tile, epoch := c.epoch, frame := f }] }
    let s := s.modPeer dst fun p => { p with waiting := p.waiting.filter fun w => w.ty.toNat != tySend || w.param != prm }
    s.sendSeq dst tySend prm data) s

/-! ## What a tile writes (R277, R387, R388) -/

/-- Elements packed into bytes, each with the bits it has: index and code over a base address. -/
def packBytes (base bits : Nat) (ws : List (Nat × Nat)) : Tab (Byte × Byte) :=
  ws.foldl (fun t w =>
    if bits < 8 then
      let a := base + w.1 * bits / 8
      let o := Tab.get (0, 0) t a
      let sh := w.1 * bits % 8
      Tab.set (0, 0) t a (o.1 ||| BitVec.ofNat 8 (w.2 % 2 ^ bits * 2 ^ sh), o.2 ||| BitVec.ofNat 8 ((2 ^ bits - 1) * 2 ^ sh))
    else ((List.range (bits / 8)).zip (leBytes (bits / 8) w.2)).foldl (fun t b => Tab.set (0, 0) t (base + w.1 * (bits / 8) + b.1) (b.2, 0xFF)) t) []

/-- Consecutive bytes as runs. -/
def byteRuns (t : Tab (Byte × Byte)) : List (Nat × List (Byte × Byte)) :=
  (t.foldl (fun (acc : List (Nat × List (Byte × Byte))) b =>
    match acc with
    | (a, l) :: rest => if b.1 = a + l.length then (a, b.2 :: l) :: rest else (b.1, [b.2]) :: acc
    | [] => [(b.1, [b.2])]) []).reverse.map fun r => (r.1, r.2.reverse)

/-- The requests of a run of bytes: one for each 256-byte block it meets. -/
def runReqs (desc a : Nat) (l : List (Byte × Byte)) : List WReq :=
  (splitBlocks l.length a l.length).map fun c =>
    let part := (l.drop (c.1 - a)).take c.2
    { fa := c.1, data := part.map fun b => b.1, mask := part.map fun b => b.2, desc := desc }

/-- Whole bytes. -/
def fullBytes (bs : List Byte) : List (Byte × Byte) := bs.map fun b => (b, 0xFF)

/-- The window that the output range at an address lies in, as the loader found it (R353): engine, window, WEPOCH. The ranges are noted by
where they begin. -/
def State.outWindow (s : State) (c : Claim) (a : Nat) : Option (Nat × Nat × BitVec 16) :=
  if a < aperBase then none
  else ((s.run (s.slot c.slot).entry.val).aper.foldl (fun (best : Option (Nat × Nat × Nat × BitVec 16)) r =>
    if r.1 ≤ a && best.all (fun b => decide (b.1 < r.1)) then some r else best) none).map fun r => r.2

/-- The index of the first descriptor that writes an output. -/
def State.storeDesc (s : State) (c : Claim) (p : Plan) (t : Desc) : Nat :=
  let k := (p.stores.findIdx? fun d => d.role == t.role).getD 0
  ((s.slot c.slot).prog.findIdx? fun x => (x.op == .write || x.op == .winwrite) && x.osel.toNat == k).getD 0

/-- Requests for runs of bytes of an output. In a window each run is one write (R354). -/
def State.putReqs (s : State) (c : Claim) (p : Plan) (t : Desc) (runs : List (Nat × List (Byte × Byte))) : List WReq :=
  let desc := s.storeDesc c p t
  (runs.map fun r =>
    match s.outWindow c r.1 with
    | some w => [{ fa := r.1, data := r.2.map fun b => b.1, mask := r.2.map fun b => b.2, win := some w, desc := desc }]
    | none => runReqs desc r.1 r.2).flatten

/-- Requests for elements of an output; in a window the elements of one row are one write. -/
def State.elemReqs (s : State) (c : Claim) (p : Plan) (t : Desc) (ws : List (Nat × Nat)) : List WReq :=
  let bits := codeBits t.code
  if (s.outWindow c (p.outBase t)).isNone then s.putReqs c p t (byteRuns (packBytes (p.outBase t) bits ws))
  else s.putReqs c p t ((((ws.map fun w => w.1 / max 1 (t.ext 0)).eraseDups).map fun r =>
    byteRuns (packBytes (p.outBase t) bits (ws.filter fun w => w.1 / max 1 (t.ext 0) == r))).flatten)

/-- What a tile of COMPRESS writes: its blocks at their pitch with their index entries; the first tile writes the header, the last the
closing entry (R441). -/
def State.compressed (s : State) (p : Plan) (tile : Nat) : List (Nat × List Byte) :=
  let c := p.cmd
  let kind := if c.im 41 = 0 then 1 else 2
  let cb := (s.cbAny (c.im 46 % 16) (c.im 44 2)).getD {}
  let len := p.x.len
  let nblk := ceilDiv len 4096
  let bp := blockPitch kind (c.im 42) (c.im 43) (codeBits p.x.code)
  let a := p.y.addr
  let rd (k : Nat) : Byte := if k < len then s.tensorByte p.x k else 0
  let idx (i : Nat) : Nat × List Byte := (a + 64 + 4 * i, leBytes 4 (i * bp))
  let mine := (List.range 64).filter fun k => decide (64 * tile + k < nblk)
  (if tile = 0 then [(a, zheader kind (c.im 46 % 16) (c.im 44 2) nblk len)] else []) ++
    (mine.map fun k => idx (64 * tile + k)) ++ (if 64 * (tile + 1) < nblk then [] else [idx nblk]) ++
    mine.map fun k => (zbase a nblk + 64 * bp * (64 * tile + k), s.encodeBlock rd cb kind (c.im 44 2) (64 * tile + k))

/-- The elements of a run of a dense image. -/
def runElems (n bits : Nat) : Nat := n * 8 / bits

/-- The accumulator that a Stook row and column hold. -/
def Engine.acc (e : Engine) (m k : Nat) : Int × Bool := let x := Tab.get {} e.stook (m * 512 + k); (x.int, x.sat)

/-- What a tile of a rectangle delivers from its buffers, and the elements of empty boxes. -/
def State.tileOut (s : State) (n : Nat) (c : Claim) (p : Plan) (lanes : Tab Quad) : TileOut × Nat :=
  let box := p.box c.tile
  let v := s.view n
  let q := p.buffered
  if fieldOp p.cmd.op then (v.drainField q box c.direct (s.eng n).acc lanes, 0)
  else if p.cmd.op == opPool then (v.poolTile q box lanes, 0)
  else if p.cmd.op == opBoxpool then v.boxTile q box lanes
  else (v.ewTile q box s.fresh, 0)

/-! ## DRAIN (R264, R277) -/

/-- Seed the lanes of a command's generator at the engine's first tile of it (R153). Lanes of commands that hold no slot are forgotten. -/
def State.seedLanes (s : State) (n seq seed : Nat) : State :=
  s.modEng n fun e =>
    let kept := e.lanes.filter fun l => (List.range 64).any fun i => (s.slot i).used && (s.slot i).seq == l.1
    { e with lanes := if (Tab.get [] kept seq).isEmpty then
        Tab.set [] kept seq ((List.range 128).foldl (fun t l => Tab.set 0 t l (srSeed (BitVec.ofNat 64 seed) n l)) []) else kept }

/-- Take over what a tile delivers: the writes it will issue, its deposit, and the Sieve's part. -/
def State.beginDrain (s : State) (n : Nat) (c : Claim) (o : TileOut) (run : Option SieveRun) (ws : List WReq) : State :=
  let s := s.modEng n fun e => { e with
    wtodo := ws, wouts := [], dep := some (Deposit.of c o), sieve := run
    claims := e.claims.map fun k => if k == c then { k with phase := .drain } else k }
  s.landWords n outWord (ceilDiv (ws.foldl (fun a w => a + w.data.length) 0) 8)

/-- DRAIN of a live tile begins: rows leave the Stook (R93), and what the tile writes and deposits follows from its buffers. -/
def State.drainTile (s : State) (n : Nat) (c : Claim) (p : Plan) : State :=
  let e := (s.slot c.slot).entry.val
  let op := p.cmd.op
  let v := s.view n
  let q := p.buffered
  if p.cmd.copyIs subCompress then
    s.beginDrain n c {} none (s.putReqs c p p.y ((v.compressed q c.tile).map fun w => (w.1, fullBytes w.2)))
  else if p.cmd.copyIs subExpand then
    let x := 262144 * c.tile
    let len := min 262144 (p.x.len - x)
    s.beginDrain n c { elems := runElems len (codeBits p.x.code) } none
      (s.putReqs c p p.y [(p.y.addr + x, fullBytes ((List.range len).map fun i => v.tensorByte q.x (x + i)))])
  else if op == opOptim then
    let j := s.job e
    let ws := v.optTile q (v.optCfg q j.gen) j.draws (p.box c.tile)
    s.beginDrain n c { elems := boxSize (p.box c.tile) } none
      ((p.optRoles.map fun r => s.elemReqs c p (p.d r) ((ws.filter fun w => w.1 == r).map fun w => w.2)).flatten)
  else
    let seq := (s.slot c.slot).seq
    let stook := fieldOp op || op == opPool || op == opBoxpool
    let rows := if op == opGemm then p.rows (p.box c.tile) else p.mt
    let sr := p.cmd.usesSieve && p.cmd.round == 1 && stook
    let s := if sr then s.seedLanes n seq p.cmd.seed else s
    let s := if stook then s.readRows n c rows else s
    let o := s.tileOut n c p (Tab.get [] (s.eng n).lanes seq)
    let s := (s.used (2 * o.1.elems + 262144)).bump 0 n 21 o.2
    let ws := if op == opStats then [] else s.elemReqs c p p.y o.1.writes
    let run : SieveRun := { seq := seq, rows := rows, sr := sr, elems := if op == opStats then 0 else o.1.elems
                            cliph := o.1.cliph, clipl := o.1.clipl, satin := o.1.satin }
    s.beginDrain n c o.1 (if p.cmd.usesSieve then some run else none) ws

/-- COMPUTE_END: COMPUTE has been carried out on the tile's buffers, whose words have been read; without a hold, poisoned data or a failure
DRAIN begins, and the engine makes its second claim (R119, R260, R346). How many writes are issued before the next event is open. The frames
of a SEND leave. -/
def execComputeEnd (eng : Fin 24) (s : State) : Host.Outcome State Fault Refusal :=
  let n := eng.val
  match (s.eng n).inPhase .compute with
  | none => done s
  | some c =>
    if c.failed || s.dev.halted then done s
    else
      let p := s.planOf (s.slot c.slot).entry.val
      let live := s.liveClaim c
      let s := if c.computed then s
        else
          let s := s.checkWords n ((s.eng n).barn.bad.filter fun w => decide (tileWord ≤ w.1))
          let s := if live then s.computeTile n c p else s.workUnknown n [0, 1, 2, 3, 4, 5, 12]
          s.modEng n fun e => { e with claims := e.claims.map fun k => if k.phase == .compute then { k with computed := true } else k }
      match (s.eng n).inPhase .compute with
      | none => done s
      | some c =>
        if (s.eng n).hold || c.poisoned || c.failed then done s
        else
          let s := if !live then (s.workUnknown n [6, 7, 8, 9]).beginDrain n c {} none []
            else if p.cmd.op == opSend then
              let s := s.beginDrain n c {} none []
              let s := s.modEng n fun e => { e with claims := e.claims.map fun k => if k.phase == .drain then { k with wrote := true } else k }
              if s.staleWrite c.slot c.epoch then s else s.sendTile n c (s.slot c.slot).entry.val p
            else s.drainTile n c p
          let s := (s.issueWrites n (s.free % ((s.eng n).wtodo.length + 1))).used
          done (s.sendClaim n)

/-- Frames of a tile whose answers are still due (R264, R556). -/
def State.sendsDue (s : State) (n : Nat) (c : Claim) : Bool :=
  s.sendTx.any fun t => t.2.out.any fun o => o.eng.val == n && o.slot == c.slot && o.tile == c.tile && o.epoch == c.epoch

/-- Writes of a tile whose command is gone are dropped where they arrive and counted there (R33, R375): which slices and windows they reach,
and how many, is open. -/
def State.dropUnknown (s : State) : State :=
  forEach (List.range 192) (fun w s => s.bumpFree 4 w 2) (forEach (List.range 64) (fun i s => s.bumpFree 2 i 4) s)

/-- The writes of a tile that are not acknowledged yet, in order: each is made unless the tile has failed before it (R393). -/
def State.restOfDrain (s : State) (n : Nat) (c : Claim) : State :=
  let s := forEach (s.eng n).wouts (fun w s => (s.modEng n fun e => { e with wouts := e.wouts.erase w }).writeAcked n c.slot c.tile c.epoch w) s
  if (s.eng n).wtodo.isEmpty then s
  else
    let s := s.checkWords n ((s.eng n).barn.bad.filter fun w => decide (outWord ≤ w.1))
    forEach (s.eng n).wtodo (fun w s =>
      if ((s.eng n).inPhase .drain).any fun k => !k.failed && !k.poisoned then
        (s.modEng n fun e => { e with wtodo := e.wtodo.erase w }).writeAcked n c.slot c.tile c.epoch w
      else s) s

/-- DRAIN_END: every write is acknowledged, the deposit made and DONE sent, in this order (R264); the engine takes its next tile (R260). Writes
that have not been acknowledged yet are so now. -/
def execDrainEnd (eng : Fin 24) (s : State) : Host.Outcome State Fault Refusal :=
  let n := eng.val
  match (s.eng n).inPhase .drain with
  | none => done s
  | some c =>
    if c.failed || c.poisoned || s.dev.halted || s.sendsDue n c then done s
    else
      let s := s.restOfDrain n c
      match (s.eng n).inPhase .drain with
      | none => done s
      | some k =>
        if k.failed || k.poisoned then done s
        else
          let live := s.liveClaim c
          let p := s.planOf (s.slot c.slot).entry.val
          let s := match (s.eng n).sieve with
            | some r => s.sieved n r
            | none => s
          let s := if !live then s.dropUnknown else if p.wino then s.bump 0 n (if c.direct then 18 else 17) 1 else s
          let s := (s.bumpFree 0 n 13).setCell (2 * n + c.cell) (s.eng n).dep
          let s := s.modEng n fun e => { e with
            claims := e.claims.erase k, wouts := [], wtodo := [], dep := none, sieve := none, millKept := [], idle := false, buf := []
            outq := e.outq ++ [.done { slot := c.slot, tile := c.tile, epoch := c.epoch } c.cell] }
          done (State.nextTile 3 s n)

/-! ## Acceptance (R265, R464-R467) -/

/-- TALLY_DONE: an engine's DONE is accepted, or dropped and counted (R265). -/
def execTallyDone (eng : Fin 24) (s : State) : Host.Outcome State Fault Refusal :=
  let n := eng.val
  match (s.eng n).outq with
  | .done g cell :: rest =>
    let s := s.modEng n fun e => { e with outq := rest }
    let sl := s.slot g.slot
    let open_ := sl.opn.find? fun c => c.eng.val == n && c.tile == g.tile
    if sl.used && !sl.stopping && sl.epoch == g.epoch && open_.isSome then
      let dep := (s.cell (2 * n + cell)).filter fun x => x.slot == g.slot && x.tile == g.tile && x.epoch == g.epoch
      done (s.modSlot g.slot fun sl => { sl with
        opn := sl.opn.filter fun c => !(c.eng.val == n && c.tile == g.tile)
        done := sl.done + 1, doneTiles := g.tile :: sl.doneTiles
        foldq := sl.foldq ++ [dep.getD { slot := g.slot, tile := g.tile, epoch := g.epoch, elems := 0, cliph := 0, clipl := 0, satin := 0, ext := [] }] })
    else done (s.bump 1 0 0 1)
  | _ => done s

/-- Fold one deposit into a command area and set its bitmap bit (R465). -/
def Area.fold (a : Area) (d : Deposit) : Area :=
  { a with
    mcnt := a.mcnt + 1, elems := a.elems + d.elems, cliph := a.cliph + d.cliph, clipl := a.clipl + d.clipl, satin := a.satin + d.satin
    merge := d.ext.foldl (fun t x => mergeExt t x.1 x.2.1 x.2.2) a.merge
    bitmap := d.tile :: a.bitmap }

/-- DEPOSIT_FOLD: the three writes of the oldest acceptance not yet durable (R465, R466). The last one finishes the command's
work (R468 step 1). -/
def execDepositFold (slot : Fin 64) (s : State) : Host.Outcome State Fault Refusal :=
  let i := slot.val
  let sl := s.slot i
  match sl.foldq with
  | [] => done s
  | d :: rest =>
    if !sl.used || sl.stopping || s.dev.halted || s.sec.reeveHalted then done s
    else
      let e := sl.entry.val
      match (s.entry e).area with
      | none => done s
      | some a =>
        let s := s.modArea a.toNat fun x => x.fold d
        let s := (s.modSlot i fun x => { x with foldq := rest }).writeEntry e fun x => { x with donen := x.donen + 1 }
        done (if sl.done = sl.tcount ∧ rest = [] then s.modRun e fun r => { r with phase := .finished } else s)

/-! ## Restamps and aging (R266-R269, R274) -/

/-- RESTAMP: an engine handles a RESTAMP of a slot; a tile it discards is cut short, and frees it (R267-R269). -/
def execRestamp (eng : Fin 24) (slot : Fin 64) (s : State) : Host.Outcome State Fault Refusal :=
  let n := eng.val
  match (s.eng n).inq with
  | .restamp i epoch :: rest =>
    if i ≠ slot.val || s.dev.halted then done s
    else
      let s := s.modEng n fun e => { e with inq := rest }
      let s := s.cutTile n fun c => !keepsTile (s.slot i).stopping i c
      done (State.nextTile 3 (s.engineRestamp n i epoch) n)
  | _ => done s

/-- RESTAMP_ANSWER: the Tally collects an engine's answer (R268, R269). -/
def execRestampAnswer (eng : Fin 24) (slot : Fin 64) (s : State) : Host.Outcome State Fault Refusal :=
  let n := eng.val
  match (s.eng n).outq with
  | .answer i epoch kept :: rest =>
    if i ≠ slot.val then done s
    else done ((s.modEng n fun e => { e with outq := rest }).tallyAnswer n i epoch kept)
  | _ => done s

/-- EPRIO_RAISE: 64 µs without service while the slot has tiles to hand out (R274). -/
def execEprioRaise (slot : Fin 64) (s : State) : Host.Outcome State Fault Refusal :=
  let sl := s.slot slot.val
  done (if sl.ready && decide (sl.eprio < 3) then (s.setSlot slot.val { sl with eprio := sl.eprio + 1 }).bump 1 0 2 1 else s)

end Sys2Proof.Machine
end

