-- ==== Sys2Proof/Machine/Commit.lean ====
section
/-! DEFINITION. Commits: every effect of a command as an absolute value, then their application (R165-R169, R177, R468-R473). -/

namespace Sys2Proof.Machine

/-! ## Statistics at commit (R157-R159, R165) -/

/-- The real extremes of a block of an output: s_b × (u′ − z_b), or the extremes themselves for BF16 and FP32 (R158). What a
block without an element records is open (log 1); `k` numbers its values. -/
def State.realExt (s : State) (y : Desc) (a : Area) (k b : Nat) : Word × Word :=
  match Tab.get none a.merge b with
  | none => (BitVec.ofNat 32 (Config.freeNat (k + 2 * b)), BitVec.ofNat 32 (Config.freeNat (k + 2 * b + 1)))
  | some (hi, lo) =>
    if codeScaled y.code then
      let sb := fmul (fofInt (scaleVal (s.scCode y.stab b) : Nat)) (s.stG y.stab)
      (fmul sb hi, fmul sb lo)
    else (hi, lo)

/-- History slot `j` of block `b` of a table: its maximum and minimum as FP32 (R137). -/
def State.histAt (s : State) (t b j : Nat) : Word × Word :=
  let h := t + stHoff (s.stNb t) (s.stNz t) (codeBits (s.stCode t)) + 4 * (16 * b + j)
  (bfWide (BitVec.ofNat 16 (leNat (s.memBytes h 2))), bfWide (BitVec.ofNat 16 (leNat (s.memBytes (h + 2) 2))))

/-- Step 2 of R165: the new history slot, HEAD, FILLED and STEPS of a table, from an output's extremes. -/
def State.histWrites (s : State) (t : Nat) (y : Desc) (a : Area) (k : Nat) : List Staged :=
  let nb := s.stNb t
  let head := (s.stHead t + 1) % 16
  let off := t + stHoff nb (s.stNz t) (codeBits (s.stCode t))
  let steps := leNat (s.memBytes (t + 16) 4)
  ((List.range nb).map fun b =>
    let r := s.realExt y a k b
    Staged.mem (BitVec.ofNat 48 (off + 4 * (16 * b + head))) (leBytes 2 (bfRne r.1).toNat ++ leBytes 2 (bfRne r.2).toNat)) ++
  [.mem (BitVec.ofNat 48 (t + 13)) [BitVec.ofNat 8 head, BitVec.ofNat 8 (min (s.stFilled t + 1) 16)],
   .mem (BitVec.ofNat 48 (t + 16)) (leBytes 4 (min (steps + 1) 0xFFFFFFFF))]

/-- The derivation of one block over its newest `w` history slots, the newest of which holds `new` (R166). -/
def State.deriveBlock (s : State) (t w mg b : Nat) (new : Word × Word) : Derived :=
  let code := s.stCode t
  let head := (s.stHead t + 1) % 16
  let n := min w (min (s.stFilled t + 1) 16)
  let older := (List.range (n - 1)).map fun i => s.histAt t b ((head + 15 - i) % 16)
  let e := older.foldl (fun (a : Word × Word) x => (fmax a.1 x.1, fmin a.2 x.2)) new
  derive (codeUnsigned code) (codeBits code) (s.stG t) mg e.1 e.2
    (if s.stNz t = 0 then 0 else s.zpAt t (s.stNb t) (codeBits code) b)

/-- The codes and flags that a derivation writes into a table (R136, R167, R168). -/
def scaleWrites (t : Nat) (ds : List Derived) : List Staged :=
  [.mem (BitVec.ofNat 48 (t + 64)) (ds.map fun d => BitVec.ofNat 8 d.code),
   .mem (BitVec.ofNat 48 (t + 15)) [BitVec.ofNat 8 ((if ds.any Derived.const then 1 else 0) + (if ds.any Derived.clipped then 2 else 0))]]

/-- The same with the zero points. -/
def State.codeWrites (s : State) (t : Nat) (ds : List Derived) : List Staged :=
  let nb := s.stNb t
  let bits := codeBits (s.stCode t)
  let zps := (List.range ds.length).zip ds |>.foldl (fun (v : Nat) x => v + x.2.zp * 2 ^ (bits * x.1)) 0
  scaleWrites t ds ++
  (if s.stNz t = 0 then [] else [.mem (BitVec.ofNat 48 (t + stZoff nb)) (leBytes (ceilDiv (nb * bits) 8) zps)])

/-- What a commit decides about adaptation: staged writes, the flags of R159, and whether the command runs again. -/
structure Adapt where
  writes : List Staged := []
  nofit : Bool := false
  rerun : Bool := false
  const : Bool := false
  clipped : Bool := false
  adapted : Bool := false
  /-- This commit is the first of two (R471). -/
  again : Bool := false
deriving DecidableEq, Repr

/-- The newest recorded extremes of a block, rounded as history holds them. -/
def State.newExt (s : State) (y : Desc) (a : Area) (k b : Nat) : Word × Word :=
  let r := s.realExt y a k b
  (bfWide (bfRne r.1), bfWide (bfRne r.2))

/-- Greatest and least over all blocks of an output. -/
def State.allExt (s : State) (y : Desc) (a : Area) (k : Nat) : Word × Word :=
  (List.range (y.nb - 1)).foldl (fun (e : Word × Word) b =>
    let x := s.newExt y a k (b + 1); (fmax e.1 x.1, fmin e.2 x.2)) (s.newExt y a k 0)

/-- R165 and R169 for a command with a program entry. On a re-run `p` has Y and YALT exchanged. -/
def State.adapt (s : State) (p : Plan) (rerun : Bool) (a : Area) : Adapt :=
  match s.progOf p with
  | none => {}
  | some e =>
    let k := s.fresh
    if rerun then
      let f := (s.memByte (p.y.stab + 15)).toNat
      { writes := s.histWrites p.y.stab p.y a k, nofit := true, rerun := true, const := bitOf f 0, clipped := bitOf f 1 }
    else
      let hist := s.histWrites e.table p.y a k
      let nofit : Bool := decide (e.thresh ≠ 0) && decide (e.thresh * a.elems < (a.cliph + a.clipl) * 1024)
      if nofit && e.react == 2 then
        let alt := p.d roYalt
        let ds := (List.range (s.stNb alt.stab)).map fun b =>
          s.deriveBlock alt.stab 1 e.margin b (if alt.nb = p.y.nb then s.newExt p.y a k b else s.allExt p.y a k)
        { writes := hist ++ s.codeWrites alt.stab ds, nofit := true, again := true
          const := ds.any Derived.const, clipped := ds.any Derived.clipped }
      else if !e.hold && (e.src == 1 || (nofit && e.react == 1)) then
        let ds := (List.range (s.stNb e.table)).map fun b => s.deriveBlock e.table e.win e.margin b (s.newExt p.y a k b)
        { writes := hist ++ s.codeWrites e.table ds, nofit := nofit, adapted := true
          const := ds.any Derived.const, clipped := ds.any Derived.clipped }
      else { writes := hist, nofit := nofit }

/-- The statistics record (R159). -/
def statRecord (a : Area) (d : Adapt) : List Byte :=
  let b (x : Bool) (v : Nat) : Nat := if x then v else 0
  leBytes 8 a.elems ++ leBytes 8 a.cliph ++ leBytes 8 a.clipl ++ leBytes 4 (min a.satin 0xFFFFFFFF) ++
    [BitVec.ofNat 8 (b d.nofit 1 + b d.rerun 2 + b d.const 4 + b d.clipped 8 + b d.adapted 16), 0, 0, 0]

/-! ## The effects of each command (R473) -/

/-- Effects of a tiled command. The job carries CONST for any derivation, OPTIM's among them (R160), and RERUN from the second commit of a
re-run (log 106). -/
def State.tiledEffects (s : State) (e : Nat) (p : Plan) (a : Area) : List Staged :=
  let j := s.job e
  let d := s.adapt p j.rerunPhase a
  let stat := if p.has roStatrec && !d.again then [Staged.mem (BitVec.ofNat 48 (p.d roStatrec).addr) (statRecord a d)] else []
  let tables := if p.cmd.op == opOptim then
      (p.optRoles.filter fun r => codeScaled (p.d r).code).map fun r => ((p.d r).stab, s.optDerived p (s.optCfg p j.gen) j.draws r)
    else []
  let opt := (tables.map fun t => scaleWrites t.1 t.2).flatten ++
    (if p.cmd.op == opOptim && p.has roGenrec then [.mem (BitVec.ofNat 48 (p.d roGenrec).addr) (leBytes 4 (j.gen.toNat + 1))] else [])
  let const : Bool := d.const || tables.any fun t => t.2.any Derived.const
  stat ++ d.writes ++ (if const || d.rerun then [.flags d.rerun const] else []) ++
    (if d.again then [.rerunPhase] else if j.rerunPhase then [.rerunDone (BitVec.ofNat 16 p.cmd.rcont)] else []) ++ opt

/-- The WREC record of an opening (R350). -/
def State.wrecBytes (s : State) (eng win off len : Nat) : List Byte :=
  leBytes 6 (aperBase + eng * 0x1000000 + off) ++ leBytes 2 (epochNext (s.window eng win).wepoch).toNat ++
    [BitVec.ofNat 8 eng, BitVec.ofNat 8 win, BitVec.ofNat 8 s.dev.id.toNat, 0] ++ leBytes 4 len

/-- Effects of the other commands. -/
def State.plainEffects (s : State) (e : Nat) (p : Plan) : List Staged :=
  let c := p.cmd
  let q := (s.entry e).queue
  if c.op == opSignal then
    let i := c.im 40
    [.signal q (BitVec.ofNat 2 i) (Tab.get 0 (s.queue q.toNat).sc i + BitVec.ofNat 32 (c.im 44 4))]
  else if c.op == opLoadb then
    [.slots (c.im 40) ((List.range (c.im 41)).map fun i => BitVec.ofNat 32 (leNat (s.memBytes (c.im 42 6 + 4 * i) 4)))]
  else if c.op == opWopen then
    let eng := c.im 40
    let win := c.im 41
    let w := p.d? roWrec
    [.winOpen { eng := Fin.ofNat 24 eng, win := Fin.ofNat 8 win, off := BitVec.ofNat 23 (c.im 44 4), len := BitVec.ofNat 23 (c.im 48 4)
                engmask := BitVec.ofNat 24 (c.im 52 3), devmask := BitVec.ofNat 64 (c.im 56 8)
                wrec := w.map fun t => BitVec.ofNat 48 t.addr }] ++
      (match w with
        | some t => [.mem (BitVec.ofNat 48 t.addr) (s.wrecBytes eng win (c.im 44 4) (c.im 48 4))]
        | none => [])
  else if c.op == opWclose then [.winClosed (Fin.ofNat 24 (c.im 40)) (Fin.ofNat 8 (c.im 41))]
  else if c.op == opCodebook then
    let st := c.im 40 % 16
    let gen := c.im 42 2
    let a := (p.d roCbook).addr
    if (s.cbAny st gen).isSome then []
    else
      let h := s.memBytes a 64
      [.codebook (BitVec.ofNat 4 st) (BitVec.ofNat 16 gen) (BitVec.ofNat 48 a) (BitVec.ofNat 32 (s.cbEcrc a)) (fld h 1 1) (fld h 2 1)
        (fld h 3 1) (fld h 4 1 % 16)]
  else []

/-! ## Applying (R468 step 4) -/

/-- Steps 5 of R423 and R424: fill the empty slot of a stream. -/
def State.fillBook (s : State) (st : Nat) (b : CbSlot) : State :=
  let i := if (s.cbSlot st 0).st == .empty then 0 else 1
  let o := s.cbSlot st (1 - i)
  if o.st == .current then
    ((s.setCbSlot st (1 - i) { o with st := .retiring }).setCbSlot st i { b with st := .pending }).swapBooks st
  else s.setCbSlot st i { b with st := .current }

/-- Open a window as a WOPEN of a queue gives it (R350). -/
def State.openWindow (s : State) (q : BitVec 5) (w : WinRec) : State :=
  s.modWindow w.eng.val w.win.val fun x =>
    { x with st := .opn, off := w.off, len := w.len, engmask := w.engmask, devmask := w.devmask
             wepoch := epochNext x.wepoch, owner := q, lost := false, closer := none }

/-- Apply one staged write of an entry's command. -/
def State.applyStaged (s : State) (e : Nat) (x : Staged) : State :=
  match x with
  | .mem a bs => s.fabricWrite clsControl a.toNat bs
  | .signal q c v => s.modQueue q.toNat fun y => { y with sc := Tab.set 0 y.sc c.toNat v }
  | .slots first vals =>
    let put (t : Tab Word) : Tab Word := ((List.range vals.length).zip vals).foldl (fun t v => Tab.set 0 t (first + v.1) v.2) t
    (s.modJob e fun j => { j with bslots := put j.bslots }).modQueue (s.entry e).queue.toNat fun y => { y with bslots := put y.bslots }
  | .winOpen w => (s.openWindow (s.entry e).queue w).modJob e fun j => { j with windows := j.windows ++ [w] }
  | .winClosed eng win => s.modJob e fun j => { j with windows := j.windows.filter fun w => !(w.eng == eng && w.win == win) }
  | .codebook st gen caddr ecrc kind vlen cbits ecode =>
    s.fillBook st.toNat { gen := gen, caddr := caddr, ecrc := ecrc, kind := kind, vlen := vlen, cbits := cbits, ecode := ecode }
  | .flags rerun const => s.writeEntry e fun y => { y with rerun := y.rerun || rerun, const := y.const || const }
  | .rerunPhase => s.modJob e fun j => { j with rerunPhase := true }
  | .rerunDone _ => s.modJob e fun j => { j with rerunPhase := false }

/-- Apply staged writes in order. -/
def State.applyAll (s : State) (e : Nat) (l : List Staged) : State := l.foldl (fun s x => s.applyStaged e x) s

/-- Where a commit leaves CIDX: the next entry, the same one for the first commit of a re-run, RCONT after the second. -/
def nextIdx (l : List Staged) (cidx : Half) : Half :=
  if l.contains .rerunPhase then cidx
  else match l.findSome? fun x => match x with
      | .rerunDone c => some c
      | _ => none with
    | some c => c
    | none => cidx + 1

/-- Step 5 of R468: the entry write, and the release of slot and area. The command that runs again waits for a slot (R471). -/
def State.finishCommit (s : State) (e : Nat) (l : List Staged) : State :=
  let again := l.contains .rerunPhase
  let i := s.slotOf e
  let run := s.run e
  let job := s.job e
  let s := s.writeEntry e fun x =>
    { x with cmt := false, cidx := nextIdx l x.cidx, cepoch := 0, slot := none, area := none, donen := 0
             ncmd := if again || x.ncmd = 0xFFFF then x.ncmd else x.ncmd + 1 }
  let s := match i with
    | some i => s.releaseSlot i
    | none => s
  if again then
    let s := s.freeAreas e
    let s := (s.setRun e { run with phase := .waitSlot, order := s.passSeq }).setJob e { job with staged := [] }
    { s with passSeq := s.passSeq + 1 }
  else s.releaseHold e

/-- The command at CIDX of an entry commits (R468). -/
def State.commit (s : State) (e : Nat) : State :=
  let p := s.planOf e
  let x := s.entry e
  let l := if tiledOp p.cmd.op then s.tiledEffects e p (match x.area with
      | some a => s.area a.toNat
      | none => {})
    else s.plainEffects e p
  let s := forEach (s.adaptsOf p) (fun t s => s.readBy clsControl t (stLen (s.stNb t) (s.stNz t) (codeBits (s.stCode t)))) (s.used (2 * p.y.nb))
  let s := match x.area with
    | some a => s.modArea a.toNat fun y => { y with staged := l }
    | none => s.modJob e fun j => { j with staged := l }
  let s := s.writeEntry e fun x => { x with cmt := true }
  if (s.entry e).st == .running then (s.applyAll e l).finishCommit e l else s

/-- A WAIT's condition holds (R239). -/
def State.waitMet (s : State) (c : Cmd) : Bool :=
  decide (0 ≤ (Tab.get 0 (s.queue (c.im 40)).sc (c.im 41) - BitVec.ofNat 32 (c.im 44 4)).toInt)

/-- The command at CIDX of an entry commits if its work is finished. A halted device commits nothing (R576), nor does one whose DRAM
is off; a WAIT is finished once its counter reaches THRESH. -/
def State.tryCommit (s : State) (e : Nat) : State :=
  let r := s.run e
  let c := cmdOf (s.cmdBytes e)
  let ready := r.phase == .finished || (r.phase == .acting && c.op == opWait && s.waitMet c)
  if ready && (s.entry e).st == .running && !s.dev.halted && !s.power.recovering && s.dramUp && !s.sec.reeveHalted then s.commit e else s

/-- COMMAND_COMMIT (R468). -/
def execCommandCommit (e : Fin 16384) (s : State) : Host.Outcome State Fault Refusal := done (s.tryCommit e.val)

/-- WAIT_TIMEOUT (R241). -/
def execWaitTimeout (e : Fin 16384) (s : State) : Host.Outcome State Fault Refusal :=
  let c := cmdOf (s.cmdBytes e.val)
  done (if (s.run e.val).phase == .acting && c.op == opWait && c.im 48 4 != 0 && !s.waitMet c && !s.dev.halted && s.dramUp && !s.sec.reeveHalted then
    s.failCommand e.val stTimeout else s)

end Sys2Proof.Machine
end

