-- ==== Sys2Proof/Machine/Commands.lean ====
section
/-! DEFINITION. The opcodes of a command list: the loader check of the command at CIDX and the start of its action (R56, R187-R192,
R210-R251). -/

namespace Sys2Proof.Machine

/-! ## The loader check of one command -/

/-- The entry is in a state in which the Reeve works on it. -/
def State.reeveRuns (s : State) (e : Nat) : Bool :=
  let st := (s.entry e).st
  (st == .accepted || st == .running) && !s.dev.halted && !s.power.recovering && s.dev.rdone && !s.pins.thermtrip &&
    !s.sec.reeveHalted

/-- Every earlier job of the queue has reached COMMITTED (R190). -/
def State.earlierDone (s : State) (e : Nat) : Bool :=
  let x := s.entry e
  (s.queueEntries x.queue.toNat).all fun p => !(jseqBefore p.2.jseq x.jseq) || p.2.st == .committed || p.2.st == .posted

/-- Commands of queues keep their order: a job starts after the jobs submitted before it have started (R190). -/
def State.startsInOrder (s : State) (e : Nat) : Bool :=
  let x := s.entry e
  x.st != .accepted || (s.queueEntries x.queue.toNat).all fun p => !(jseqBefore p.2.jseq x.jseq) || p.2.st != .accepted

/-- A failed check completes the command; STATE is recorded in the Parish Book (R245, R602). -/
def State.failCheck (s : State) (x : LoadCtx) (status step ddesc cause : Nat) : State :=
  let s := if status = stState then
      s.record 0x0400 x.q (s.entry x.e).jseq.toNat (x.cidx + x.c.op * 65536) cause
    else s
  s.failCommand x.e status step ddesc

/-- The windows that a command's output ranges lie in, with the WEPOCH step 10 reads (R353). -/
def State.aperOf (s : State) (p : Plan) : List (Nat × Nat × Nat × BitVec 16) :=
  p.outputs.filterMap fun r => (s.openAt r.a r.n).map fun w => (r.a, w.1, w.2, (s.window w.1 w.2).wepoch)

/-- What a passed check fixes (R164, R179, R180, R237, R251, R349, R422, R455, R480): the entry is RUNNING, the job record holds
the generation slots, codebook generations and SEND numbers, and the Reeve the order and footprint. -/
def State.recordPass (s : State) (x : LoadCtx) : State :=
  let c := x.c
  let p := x.p
  let gr := (p.d? roGenrec).map fun t => t.addr
  let gs := (gr.map s.genSlots).getD (0, 0)
  let send := c.op == opSend
  let dst := c.im 40
  let fpt := if send then s.sendFpt dst else 0
  let base := (s.stx dst).next
  let tiled := tiledOp c.op
  let mt := if c.op == opBoxpool then s.boxesPerTile c x.slots else 0
  let s := s.writeEntry x.e fun y => { y with st := .running }
  let s := s.modJob x.e fun j => { j with
    gens := (BitVec.ofNat 48 gs.1, BitVec.ofNat 48 gs.2), gen := (gr.map s.genOf).getD 0
    cbrefs := ((s.zifers p).map fun z => (BitVec.ofNat 4 z.2.2.1, BitVec.ofNat 16 z.2.2.2)).eraseDups
    sendBase := if send then base else 0, fpt := fpt, psize := if send then s.pairPsize dst else 0, mt := mt
    draws := if c.op == opOptim then s.fresh else 0 }
  let s := if c.op == opOptim then s.used (3 * ((p.d roMaster).ext 0 * (p.d roMaster).ext 1 * (p.d roMaster).ext 2 * (p.d roMaster).ext 3)) else s
  let s := if send then s.setStx dst { s.stx dst with next := base + BitVec.ofNat 48 (p.tcount * fpt) } else s
  let s := s.setRun x.e {
    phase := if tiled then .waitSlot else if c.op == opWait || c.op == opWclose || c.op == opScrub then .acting else .finished
    order := s.passSeq, tcount := if tiled then p.tcount else 0, reads := s.readsOf p, adapts := s.adaptsOf p
    genrec := if c.op == opOptim then gr else none, foot := if tiled then p.footprint else 0, aper := s.aperOf p }
  { s with passSeq := s.passSeq + 1 }

/-- Set up the Tally slot of a command with a free slot and command area: its transfer program, and AVAILABLE where it has tiles to hand out
(R56 step 5, R249-R251, R255, R261, R382, R449). -/
def State.setSlotUp (s : State) (e i a : Nat) (epoch : BitVec 16) : State :=
  let x := s.entry e
  let prio := (s.queue x.queue.toNat).prio.toNat
  let p := s.planOf e
  let prog := s.program p (s.run e).aper
  let done := (s.area a).bitmap
  let s := s.modArea a fun y => { y with owner := some e }
  let s := s.writeEntry e fun y => { y with
    cepoch := epoch, slot := some (BitVec.ofNat 6 i), area := some (BitVec.ofNat 6 a), donen := BitVec.ofNat 25 done.length }
  let s := s.setSlot i {
    used := true, entry := Fin.ofNat 16384 e, queue := x.queue, cidx := x.cidx, tcount := p.tcount, epoch := epoch, prio := prio
    eprio := prio, seq := s.slotSeq, done := done.length, doneTiles := done, prog := prog.1 ++ prog.2 }
  let s := s.modRun e fun r => { r with
    phase := if done.length = p.tcount then .finished else .tiled, tcount := p.tcount }
  let s := { s with slotSeq := s.slotSeq + 1 }
  if (s.slot i).ready then s.signalAvailable else s

/-- Commands that wait for a Tally slot, first check passed first (R251). -/
def State.nextWaiter (s : State) : Option Nat :=
  (s.runs.foldl (fun (best : Option (Nat × Nat)) r =>
    if r.2.phase == .waitSlot then
      match best with
      | some b => if r.2.order < b.2 then some (r.1, r.2.order) else best
      | none => some (r.1, r.2.order)
    else best) none).map fun b => b.1

/-- Give the first waiting command a slot, if slot and area are free. During ENTERING no further slot is held (R625). -/
def State.assignSlot (s : State) : State :=
  if !(s.dev.pstate == psActive || s.dev.pstate == psIdle) then s
  else
    match s.nextWaiter, s.freeSlot, s.freeArea with
    | some e, some i, some a => s.setSlotUp e i a (epochNext (s.slot i).epoch)
    | _, _, _ => s

/-- The start of an action that the Reeve carries out (R343, R359, R423). -/
def State.startAction (s : State) (x : LoadCtx) : State :=
  let c := x.c
  if c.op == opWclose then
    (s.modWindow (c.im 40) (c.im 41) fun w => { w with st := .closing, closer := some (Fin.ofNat 16384 x.e) }).beginCopy (c.im 40)
  else if c.op == opScrub then
    let fl := c.im 43
    let s := if bitOf fl 2 then s.dropAllLines else s
    let engs := (List.range 24).filter fun n => bitOf (c.im 40 3) n
    if (bitOf fl 0 || bitOf fl 1) && !engs.isEmpty then
      forEach engs (fun n s => s.modEng n fun g => { g with scrubs := g.scrubs ++ [(Fin.ofNat 16384 x.e, bitOf fl 0, bitOf fl 1)] }) s
    else s.modRun x.e fun r => { r with phase := .finished }
  else if c.op == opCodebook then
    if (s.cbAny (c.im 40 % 16) (c.im 42 2)).isNone && !s.cbCrcOk (x.p.d roCbook).addr (s.cbEcrc (x.p.d roCbook).addr) then
      s.failCommand x.e stCrc
    else s
  else s

/-- The outcome of a loader check. A command whose action ends at once commits at once (log 21). -/
def State.afterCheck (s : State) (x : LoadCtx) (k : Chk) : State :=
  match k with
  | .fail status step ddesc cause => s.failCheck x status step ddesc cause
  | .wait => s.modRun x.e fun r => { r with phase := .wait14, foot := if tiledOp x.c.op then x.p.footprint else 0 }
  | .pass =>
    if x.c.op == opEnd then
      let s := s.writeEntry x.e fun y => { y with st := .committed, cepoch := 0 }
      s.releaseHold x.e
    else
      let s := s.recordPass x
      if tiledOp x.c.op then (if (s.freeSlot).isSome && s.nextWaiter == some x.e then s.assignSlot else s)
      else (s.startAction x).tryCommit x.e

/-- The loader check from step 1, with the fetches of that step (R19, R24): a fetch that fails finally completes the command with
CRC and is reported. -/
def State.loadCommand (s : State) (e : Nat) : State :=
  let x := s.loadCtx e
  match s.step1 x with
  | some k => s.afterCheck x k
  | none =>
    match s.fetchCheck x with
    | (some ch, s) =>
      (s.failCheck x stCrc 1 nd 0).raise { source := 0x19, inst := ch, detail := BitVec.ofNat 32 ch, queue := BitVec.ofNat 8 x.q, inj := true }
    | (none, s) => (s.readControls x).afterCheck x (s.checkAll x)

/-- A command begins: one with BARRIER waits for the earlier jobs (R190), every other runs its loader check. `mine` says that the
entry's opcode is the command's own. -/
def State.beginCommand (s : State) (e : Nat) (mine : Nat → Bool) : State :=
  let c := cmdOf (s.cmdBytes e)
  if !s.reeveRuns e || (s.run e).phase != .fresh || !mine c.op || !s.startsInOrder e ||
      !(s.dev.pstate == psActive || s.dev.pstate == psIdle) then s
  else if c.barrier && !s.earlierDone e then s.modRun e fun r => { r with phase := .barrier }
  else s.loadCommand e

/-- NOP (R210); an entry whose OPCODE is reserved is taken here too and fails step 2. -/
def execNop (e : Fin 16384) (s : State) : Host.Outcome State Fault Refusal := done (s.beginCommand e.val fun o => o == opNop || !knownOp o)
/-- GEMM (R215). -/
def execGemm (e : Fin 16384) (s : State) : Host.Outcome State Fault Refusal := done (s.beginCommand e.val fun o => o == opGemm)
/-- CONV (R300). -/
def execConv (e : Fin 16384) (s : State) : Host.Outcome State Fault Refusal := done (s.beginCommand e.val fun o => o == opConv)
/-- DWCONV (R303). -/
def execDwconv (e : Fin 16384) (s : State) : Host.Outcome State Fault Refusal := done (s.beginCommand e.val fun o => o == opDwconv)
/-- POOL (R316). -/
def execPool (e : Fin 16384) (s : State) : Host.Outcome State Fault Refusal := done (s.beginCommand e.val fun o => o == opPool)
/-- BOXPOOL (R325). -/
def execBoxpool (e : Fin 16384) (s : State) : Host.Outcome State Fault Refusal := done (s.beginCommand e.val fun o => o == opBoxpool)
/-- ELTW (R212). -/
def execEltw (e : Fin 16384) (s : State) : Host.Outcome State Fault Refusal := done (s.beginCommand e.val fun o => o == opEltw)
/-- REDUCE (R221). -/
def execReduce (e : Fin 16384) (s : State) : Host.Outcome State Fault Refusal := done (s.beginCommand e.val fun o => o == opReduce)
/-- LUT (R210). -/
def execLut (e : Fin 16384) (s : State) : Host.Outcome State Fault Refusal := done (s.beginCommand e.val fun o => o == opLut)
/-- COPY (R439). -/
def execCopy (e : Fin 16384) (s : State) : Host.Outcome State Fault Refusal := done (s.beginCommand e.val fun o => o == opCopy)
/-- SEND (R551). -/
def execSend (e : Fin 16384) (s : State) : Host.Outcome State Fault Refusal := done (s.beginCommand e.val fun o => o == opSend)
/-- OPTIM (R173). -/
def execOptim (e : Fin 16384) (s : State) : Host.Outcome State Fault Refusal := done (s.beginCommand e.val fun o => o == opOptim)
/-- STATS (R170). -/
def execStats (e : Fin 16384) (s : State) : Host.Outcome State Fault Refusal := done (s.beginCommand e.val fun o => o == opStats)
/-- LOADB (R236). -/
def execLoadb (e : Fin 16384) (s : State) : Host.Outcome State Fault Refusal := done (s.beginCommand e.val fun o => o == opLoadb)
/-- SIGNAL (R238). -/
def execSignal (e : Fin 16384) (s : State) : Host.Outcome State Fault Refusal := done (s.beginCommand e.val fun o => o == opSignal)
/-- WAIT (R239). -/
def execWait (e : Fin 16384) (s : State) : Host.Outcome State Fault Refusal := done (s.beginCommand e.val fun o => o == opWait)
/-- WOPEN (R350). -/
def execWopen (e : Fin 16384) (s : State) : Host.Outcome State Fault Refusal := done (s.beginCommand e.val fun o => o == opWopen)
/-- WCLOSE (R359). -/
def execWclose (e : Fin 16384) (s : State) : Host.Outcome State Fault Refusal := done (s.beginCommand e.val fun o => o == opWclose)
/-- SCRUB (R343). -/
def execScrub (e : Fin 16384) (s : State) : Host.Outcome State Fault Refusal := done (s.beginCommand e.val fun o => o == opScrub)
/-- CODEBOOK (R423). -/
def execCodebook (e : Fin 16384) (s : State) : Host.Outcome State Fault Refusal := done (s.beginCommand e.val fun o => o == opCodebook)
/-- END (R192). -/
def execEndList (e : Fin 16384) (s : State) : Host.Outcome State Fault Refusal := done (s.beginCommand e.val fun o => o == opEnd)

/-! ## Window closes and scrubs -/

/-- WINDOW_CLOSED: the home copy is made; with every write of it acknowledged the window is CLOSED, and WCLOSE commits (R359). A line that
poisoned words leave unwritten is never acknowledged, and the window stays CLOSING. -/
def execWindowClosed (eng : Fin 24) (win : Fin 8) (s : State) : Host.Outcome State Fault Refusal :=
  let x := s.window eng.val win.val
  if x.st == .closing && !s.dev.halted then
    let r := s.copyHome eng.val win.val
    if !r.1 then done r.2
    else
      let s := (r.2.modWindow eng.val win.val fun w => { w with st := .closed, closer := none }).endCopy eng.val
      done (match x.closer with
        | some e => (s.modRun e.val fun r => { r with phase := .finished }).tryCommit e.val
        | none => s)
  else done s

/-- SCRUB_ENGINE: an engine with no tile at work carries out the oldest part of a SCRUB, which lets the command commit when no engine has a
part of it left; then it goes on (R343). -/
def execScrubEngine (eng : Fin 24) (s : State) : Host.Outcome State Fault Refusal :=
  let n := eng.val
  match (s.eng n).scrubs with
  | [] => done s
  | (e, barn, stook) :: rest =>
    if ((s.eng n).claims.any fun c => c.phase != .claimed) || s.dev.halted then done s
    else
      let s := s.modEng n fun g => { g with scrubs := rest }
      let s := if barn then s.zeroBarn n else s
      let s := if stook then s.clearStook n else s
      let s := State.nextTile 3 s n
      done (if (List.range 24).any fun k => (s.eng k).scrubs.any fun p => p.1 == e then s
        else (s.modRun e.val fun r => { r with phase := .finished }).tryCommit e.val)

/-! ## Waits -/

/-- BARRIER_WAIT_END: the earlier jobs have reached COMMITTED and the loader check begins (R190). -/
def execBarrierWaitEnd (e : Fin 16384) (s : State) : Host.Outcome State Fault Refusal :=
  done (if s.reeveRuns e.val && (s.run e.val).phase == .barrier && s.earlierDone e.val &&
      (s.dev.pstate == psActive || s.dev.pstate == psIdle) then s.loadCommand e.val else s)

/-- LOADER_WAIT_END: a command held at step 14 runs its checks again from step 5 once nothing holds it (R244). -/
def execLoaderWaitEnd (e : Fin 16384) (s : State) : Host.Outcome State Fault Refusal :=
  done (if s.reeveRuns e.val && (s.run e.val).phase == .wait14 then
    let x := s.loadCtx e.val
    if s.step14 x then s else s.afterCheck x (s.checkFrom5 x)
  else s)

/-- TALLY_SLOT_ASSIGN (R251). -/
def execTallySlotAssign (s : State) : Host.Outcome State Fault Refusal := done (if s.dev.halted || s.sec.reeveHalted then s else s.assignSlot)

end Sys2Proof.Machine
end

