-- ==== Sys2Proof/Machine/Wake.lean ====
section
/-! DEFINITION. Power requests, wakes and the start of exits (R622-R631), and which parts are powered. -/

namespace Sys2Proof.Machine

/-! ## Requests (R624) -/

/-- A window is open, or its home copy is still being made. -/
def State.anyWindow (s : State) : Bool := s.windows.any fun w => w.2.st != .closed

/-- The frequency of the Watch clock in MHz (R616). -/
def State.watchMHz (s : State) : Nat := if s.power.wclk = 0 then 50 else if s.power.wclk = 1 then 100 else if s.power.wclk = 2 then 150 else 200

/-- The Watch current total in tenths of a milliampere (R667). -/
def State.watchCurrent (s : State) : Nat :=
  80 + 5 * ((List.range 4).filter fun i => (s.port (8 + i)).en).length + 4 * ((List.range 2).filter fun i => (s.port (12 + i)).en).length +
    s.watchMHz

/-- `WATCHSTAT.PSBLK`: the first unmet condition of the pending request; 0 where none is unmet or none is pending. -/
def State.psblk (s : State) : Nat :=
  match s.power.request with
  | none => 0
  | some r =>
    if s.bell.fstate ≠ .normal then 1
    else if s.anyWindow then 2
    else if r ≠ 3 then 0
    else if s.dev.run then 3
    else if s.usedEntries ≠ 0 then 4
    else if s.watchCurrent > 300 then 5
    else 0

/-! ## Wakes (R627, R629, R639) -/

def wkLink : Nat := 0
def wkTc10 : Nat := 1
def wkWatch : Nat := 2
def wkTimer : Nat := 3
def wkPin : Nat := 4
def wkMgmt : Nat := 5
def wkDebug : Nat := 6

/-- The enable of a source in `WATCHCTL.WAKEEN`; MGMT and DEBUG have none. -/
def State.wakeEnabled (s : State) (src : Nat) : Bool := decide (5 ≤ src) || s.power.wakeen.getLsbD src

/-- Step 1 of an exit (R638), with the WAKE_OUT pulse of R635. -/
def State.startRestore (s : State) (debug : Bool) : State :=
  let p := s.dev.pstate
  let s := s.modPower fun w => { w with
    restoreFrom := p, restorePos := 0, debugOnly := debug, request := none, lateReq := none, wakeLatched := false, watchDue := false }
  let s := s.modDev fun d => { d with pstate := psRestoring, retryDue := true }
  if p == psWatch && s.power.wout then s.modPins fun x => { x with wakePulse := true } else s

/-- A wake of a source: its WAKESRC bit, and the exit where the part is in STANDBY or WATCH; one during ENTERING is latched. -/
def State.wake (s : State) (src : Nat) : State :=
  let p := s.dev.pstate
  let debug : Bool := src == wkDebug
  if !(p == psStandby || p == psWatch || p == psEntering || p == psRestoring) || !s.wakeEnabled src then s
  else
    let s := s.modPower fun w => { w with wakesrc := w.wakesrc ||| (1#7 <<< src) }
    if p == psEntering then
      s.modPower fun w => { w with wakeLatched := true, debugOnly := if w.wakeLatched then w.debugOnly && debug else debug }
    else if p == psRestoring then s
    else s.startRestore debug

/-- The end of an entry: a latched wake starts the exit at once (R627). -/
def State.entryEnd (s : State) (p : BitVec 3) : State :=
  let s := s.modDev fun d => { d with pstate := p, retryDue := true }
  if s.power.wakeLatched then s.startRestore s.power.debugOnly else s

/-! ## `DEVCTL.PSREQ` (R622-R624, R628, R629) -/

/-- A written request acts; engines whose clocks stood in IDLE go on in ACTIVE (R623). A request for STANDBY in WATCH has no entry to take and is stored only (log 22). -/
def State.takeRequest (s : State) (v : BitVec 2) : State :=
  let p := s.dev.pstate
  let s := s.modDev fun d => { d with psreq := v }
  if p == psRestoring then s.modPower fun w => { w with lateReq := some v }
  else if v = 0 || v = 1 then
    let s := s.modPower fun w => { w with request := none }
    if p == psActive || p == psIdle then
      let s := s.modDev fun d => { d with pstate := if v = 0 then psActive else psIdle }
      if p == psIdle && v = 0 then s.wakeEngines else s
    else s.wake wkMgmt
  else if p == psActive || p == psIdle || (v = 3 && (p == psStandby || (p == psEntering && s.power.entering = 2))) then s.modPower fun w => { w with request := some v }
  else if p == psStandby then s.modPower fun w => { w with request := none }
  else s

end Sys2Proof.Machine
end

