-- ==== Sys2Proof/Machine/Admission.lean ====
section
/-! DEFINITION. Entries becoming FREE, triggered jobs, the posting of completions, and writes of the queue words (R55-R58, R455-R460,
R475-R478, R534, R535, R542, R737-R743). -/

namespace Sys2Proof.Machine

/-! ## Entries becoming FREE (R455) -/

/-- An entry becomes FREE by a durable write. -/
def State.releaseEntry (s : State) (e : Nat) : State :=
  let s := s.writeEntry e fun _ => {}
  { s with jobs := Tab.set {} s.jobs e {}, runs := Tab.set {} s.runs e {} }

/-- `QCHEAD` has passed a job's completion record. -/
def State.consumed (s : State) (e : Nat) : Bool :=
  let q := s.queue (s.entry e).queue.toNat
  match (s.job e).recIdx with
  | some i => decide ((q.ctail - q.chead).toNat < (q.ctail - i).toNat)
  | none => false

/-- POSTED to FREE for the entries of a queue, and the retry of R55. -/
def State.freeConsumed (s : State) (q : Nat) : State :=
  let es := (s.queueEntries q).filter fun p => p.2.st == .posted && s.consumed p.1 && (!p.2.form || p.2.cplack)
  if es.isEmpty then s else (forEach es (fun p s => s.releaseEntry p.1) s).retryQueue q

/-- Set CPLACK of the entry that a CPL frame names (R456, R534). -/
def State.cplAcked (s : State) (f : SkFrame) : State :=
  let q := fld f.param 0 1
  match (s.queueEntries q).find? fun p => p.2.st == .posted && p.2.form && p.2.jseq.toNat == fld f.param 4 4 with
  | some p => (s.writeEntry p.1 fun y => { y with cplack := true }).freeConsumed q
  | none => s

/-- A host endpoint lost its state: every POSTED entry of it takes CPLACK (R535). -/
def State.hostLost (s : State) (id : BitVec 6) : State :=
  let es := (s.ledger.map fun p => (p.1, s.entry p.1)).filter fun p => p.2.st == .posted && p.2.originHost && p.2.originId == id
  let s := forEach es (fun p s => s.writeEntry p.1 fun y => { y with cplack := true }) s
  forEach (List.range 32) (fun q s => s.freeConsumed q) s

/-! ## Streams and their jobs (R506, R537, R542) -/

/-- A byte of the active classifier table; the basic-derived table has no rule, filter or stream record (R506). -/
def State.clsByte (s : State) (k : Nat) : Nat := if (s.table 4).expert then (Tab.get 0 (s.table 4).active k).toNat else 0

/-- A little-endian field of the active classifier table. -/
def State.clsFld (s : State) (k n : Nat) : Nat := leNat ((List.range n).map fun i => BitVec.ofNat 8 (s.clsByte (k + i)))

/-- A stream record (R537). -/
structure StreamRec where
  en : Bool
  src : Nat
  sidx : Nat
  ring : Nat
  lnslot : Nat
  ssize : Nat
  period : Nat
  list : Nat

/-- The active record of a stream. -/
def State.streamRec (s : State) (st : Nat) : StreamRec :=
  let o := (496 + st) * 32
  { en := bitOf (s.clsByte o) 0, src := bitsOf (s.clsByte o) 2 1, sidx := s.clsByte (o + 1), ring := s.clsFld (o + 2) 6
    lnslot := s.clsByte (o + 8), ssize := s.clsFld (o + 10) 2, period := s.clsFld (o + 12) 2, list := s.clsFld (o + 16) 6 }

/-- The queue bound to a stream (R743). -/
def State.boundQueue (s : State) (st : Nat) : Option Nat :=
  (List.range 16).find? fun q => (s.queue q).sbind && (s.queue q).stream.toNat == st

/-- Submit the job of period `k` of a stream (R542); answers whether it is accepted or already there (R452). -/
def State.triggerSubmit (s : State) (st k : Nat) : Bool × State :=
  match (if s.sec.reeveHalted then none else s.boundQueue st) with
  | none => (false, s)
  | some q =>
    let r := s.streamRec st
    let tag : Quad := BitVec.ofNat 64 (st * 2 ^ 56 + k % 2 ^ 56)
    match s.admission q (some (s.dev.id, false, tag)) with
    | .accept =>
      let ph := k % max 1 (2 ^ r.lnslot / max 1 r.period)
      (true, (s.accept { queue := q, list := BitVec.ofNat 48 (r.list + ph * 4096), tag := tag, org := s.dev.id, cplack := true }).2)
    | .dup _ => (true, s)
    | _ => (false, s)

/-- A period boundary has been reached (R542): submit, or keep the submission for a retry. -/
def State.trigger (s : State) (st k : Nat) : State :=
  match s.triggerSubmit st k with
  | (true, s) => s
  | (false, s) => s.modStream st fun x => { x with retry := x.retry ++ [k] }

/-- TRIGGERED_SUBMIT_RETRY: a stream's deferred or refused submissions are made again, each counted in SPEND (R542). -/
def execTriggeredSubmitRetry (st : Fin 16) (s : State) : Host.Outcome State Fault Refusal :=
  let ks := (s.stream st.val).retry
  if s.netUp && (s.boundQueue st.val).isSome then
    let s := s.modStream st.val fun x => { x with retry := [] }
    done (forEach ks (fun k s => (s.bump 10 st.val 3 1).trigger st.val k) s)
  else done s

/-! ## Completions (R475, R476, R534, R742) -/

/-- The completion record of a job (R247). -/
def State.complRecord (s : State) (x : Entry) (tstamp : Word) : List Byte :=
  let b (f : Bool) (v : Nat) : Nat := if f then v else 0
  leBytes 8 x.tag.toNat ++ leBytes 4 x.jseq.toNat ++ [x.status, BitVec.ofNat 8 x.queue.toNat,
    BitVec.ofNat 8 (b x.rerun 1 + b x.replayed 2 + b x.degraded 4 + b x.const 8), 0] ++
    leBytes 2 x.fidx.toNat ++ leBytes 2 x.ncmd.toNat ++ [x.dstep, x.ddesc, 0, 0] ++ leBytes 4 s.dev.epoch.toNat ++ leBytes 4 tstamp.toNat

/-- The entry of a queue to be posted next: COMMITTED, every job with a lower JSEQ POSTED or FREE (R475). -/
def State.postable (s : State) (q : Nat) : Option Nat :=
  let es := s.queueEntries q
  (es.find? fun p => p.2.st == .committed && es.all fun r => !(jseqBefore r.2.jseq p.2.jseq) || r.2.st == .posted).map fun p => p.1

/-- The completion ring has room (R742). -/
def Queue.room (x : Queue) : Bool := decide ((x.ctail - x.chead).toNat < 2 ^ x.lsize.toNat)

/-- The CPL frame of an entry, to its ORIGIN (R534). -/
def State.sendCpl (s : State) (x : Entry) (cr : List Byte) : State :=
  s.sendSeq (x.originId.toNat + if x.originHost then 64 else 0) tyCpl
    (putAt (putAt noParam 0 [BitVec.ofNat 8 x.queue.toNat]) 4 (leBytes 4 x.jseq.toNat)) cr

/-- Post a job: the record, then `QCTAIL` and IRQSTAT.CPL, then the CPL, then POSTED (R56 step 10, R57, R58). The Market
releases the slots of a triggered job's period (R542). -/
def State.post (s : State) (e : Nat) : State :=
  let x := s.entry e
  let qn := x.queue.toNat
  let q := s.queue qn
  let (t, s) := s.reeveTime
  let cr := s.complRecord x t
  let s := s.fabricWrite clsControl (q.cbase.toNat + 32 * (q.ctail.toNat % 2 ^ q.lsize.toNat)) cr
  let s := (s.modQueue qn fun y => { y with ctail := y.ctail + 1 }).setIrq irqCpl
  let s := if x.form then s.sendCpl x cr else s
  let s := (s.writeEntry e fun y => { y with st := .posted }).modJob e fun j => { j with recIdx := some q.ctail }
  if !x.form && x.cplack then
    let r := s.streamRec (x.tag.toNat / 2 ^ 56 % 16)
    if r.en && r.period ≠ 0 then s.fabricWrite clsControl (r.ring + 8) (leBytes 8 ((x.tag.toNat % 2 ^ 56 + 1) * r.period)) else s
  else s

/-- Post the next completion of a queue, where there is one and the ring has room. -/
def State.postNext (s : State) (q : Nat) : State :=
  match s.postable q with
  | some e => if (s.queue q).room then s.post e else s
  | none => s

/-- COMPLETION_POST. -/
def execCompletionPost (q : Fin 32) (s : State) : Host.Outcome State Fault Refusal :=
  done (if s.dramUp && s.dev.rdone && !s.sec.reeveHalted then s.postNext q.val else s)

/-- RING_RETRY: a held ring entry is tried again every 100 µs (R55). -/
def execRingRetry (q : Fin 32) (s : State) : Host.Outcome State Fault Refusal := done (s.retryQueue q.val)

/-! ## Writes of the queue words (R739-R743) -/

/-- A write of `QTAIL`. -/
def State.writeQtail (s : State) (q : Nat) (v : Half) : State :=
  let x := s.queue q
  if 2 ^ x.lsize.toNat < (v - x.head).toNat then s.setQueue q { x with ovf := true }
  else (s.setQueue q { x with tail := v, ovf := false }).readRing q

/-- A write of `QCHEAD`. -/
def State.writeQchead (s : State) (q : Nat) (v : Half) : State :=
  let x := s.queue q
  if (x.ctail - x.chead).toNat < (v - x.chead).toNat then s.setQueue q { x with ovf := true }
  else (s.setQueue q { x with chead := v, ovf := false }).freeConsumed q

/-- A write of `QCFG`. -/
def State.writeQcfg (s : State) (q : Nat) (v : Word) : State :=
  let x := s.queue q
  let n := v.toNat
  let en := bitOf n 7
  let locked : Bool := x.en || s.drain q
  let stream : BitVec 4 := if locked then x.stream else BitVec.ofNat 4 (bitsOf n 11 8)
  let taken : Bool := (List.range 16).any fun k => k != q && (s.queue k).sbind && (s.queue k).stream == stream
  let y := { x with
    lsize := if locked then x.lsize else BitVec.ofNat 4 (max 4 (bitsOf n 3 0))
    prio := BitVec.ofNat 2 (bitsOf n 5 4), safe := bitOf n 6, en := en, stream := stream
    sbind := if locked then x.sbind else bitOf n 12 && decide (q < 16) && !taken
    quota := BitVec.ofNat 15 (min 16384 (bitsOf n 28 14)) }
  let y := if en && !x.en && s.depth q = 0 then { y with head := 0, tail := 0, chead := 0, ctail := 0 } else y
  let y := if en then y else { y with held := false, reason := 0 }
  (s.setQueue q y).readRing q

/-- A write of a ring address half, ignored while the queue is enabled or drains (R739). -/
def State.writeBase (s : State) (q : Nat) (f : Queue → Queue) : State :=
  if (s.queue q).en || s.drain q then s else s.modQueue q f

end Sys2Proof.Machine
end

