-- ==== Sys2Proof/Machine/Faults.lean ====
section
/-! DEFINITION. Reports from the checkers, the timers of the Bell, and self-tests (R560-R568, R581-R586, R590). -/

namespace Sys2Proof.Machine

/-! ## Reports -/

/-- The instance a report names is one its context has (R560, R561). -/
def instExists (c : FCtx) (i : Nat) : Bool :=
  match c with
  | .tile => decide (i < 24)
  | .eng => decide (i < 24)
  | .slice => decide (i < 64)
  | .chan => decide (i < 64)
  | .port => decide (i < 8)
  | .queue => decide (i < 32) || i == 0xFF
  | .stream => decide (i < 16)
  | .device => true

/-- A claim is the tile a report names. -/
def reportTile (r : Report) (c : Claim) : Bool :=
  match r.slot with
  | some i => c.slot == i.val && c.tile == r.tile && c.epoch == r.epoch
  | none => false

/-- Change the claims a report names. -/
def State.onTile (s : State) (r : Report) (f : Claim → Claim) : State :=
  s.modEng r.inst fun e => { e with claims := e.claims.map fun c => if reportTile r c then f c else c }

/-- R314: the Winograd stage of an engine is disabled and its tiles run in the direct form, the tile at work from its LOAD. -/
def State.winoFault (s : State) (r : Report) : State :=
  let s := (s.bump 0 r.inst 19 1).modEng r.inst fun e => { e with winoOff := true }
  let wino (c : Claim) : Bool := s.liveClaim c && !c.direct && (s.planOf (s.slot c.slot).entry.val).wino
  match (s.eng r.inst).claims.find? fun c => reportTile r c && c.phase != .drain && wino c with
  | some c =>
    let s := s.restartTile r.inst c { c with direct := true }
    s.modEng r.inst fun e => { e with claims := e.claims.map fun k => if wino k then { k with direct := true } else k }
  | none => s

/-- The tables whose SRAM a HEARTH_SRAM report locates (R52): detail bits 1 to 4 are TBLSEL values, bits 8 to 15 the gate lists of
the ports (log 23). -/
def hearthTables (detail : Nat) : List Nat :=
  ((List.range 4).map (· + 1)).filter (fun t => bitOf detail t) ++
    ((List.range 8).filter fun p => bitOf detail (8 + p)).map (· + 16)

/-- What a checker does beside its report. -/
def State.checkerEffect (s : State) (r : Report) : State :=
  let code := r.source.val
  if code = 0x00 then s.modEng r.inst fun e => { e with hold := true }
  else if code = 0x02 then s.bump 0 r.inst 23 1
  else if code = 0x04 then s.winoFault r
  else if code = 0x03 then s.onTile r fun c => { c with poisoned := true }
  else if code = 0x05 ∨ code = 0x0D ∨ code = 0x19 then s.onTile r fun c => { c with failed := true }
  else if code = 0x0C then
    match r.slot with
    | some i => if (s.slot i.val).epoch == r.epoch then s.failSlot i.val stCrc else s
    | none => s
  else if code = 0x10 then s.bump 2 r.inst 3 1
  else if code = 0x22 then
    let e := r.detail.toNat
    if (Tab.get {} s.ledger e).st ≠ .free then
      let s := s.modDev fun d => { d with lost := if d.lost = 0xFFFF then d.lost else d.lost + 1 }
      (s.dropHoldings e).freeEntry e
    else s
  else if code = 0x2B then
    let s := if (s.port r.inst).secured then s.setIrq irqLink else s
    s.modPort r.inst fun p => { p with secured := false }
  else if code = 0x38 then s.modBell fun b => { b with lostTables := b.lostTables ++ hearthTables r.detail.toNat }
  else s

/-- FAULT_REPORT: a checker reports (R560). No report is made under a reserved code or for a unit that the part lacks. -/
def execFaultReport (r : Report) (s : State) : Host.Outcome State Fault Refusal :=
  match sourceOf r.source.val with
  | none => done s
  | some f =>
    if s.dev.pstate == psOff || !(instExists f.ctx r.inst || (r.source.val == 0x19 && r.slot.isNone)) then done s
    else
      let s := s.checkerEffect r
      done (s.raise r)

/-- PLOUGH_TMO: a tile phase makes no progress for 250 µs (R561). -/
def execPloughTmo (eng : Fin 24) (s : State) : Host.Outcome State Fault Refusal :=
  match (s.eng eng.val).claims.find? fun c => c.phase != .claimed with
  | some c =>
    if s.dev.halted then done s
    else done (s.raise { source := 0x07, inst := eng.val, slot := some (Fin.ofNat 64 c.slot), tile := c.tile, epoch := c.epoch })
  | none => done s

/-! ## Timers -/

/-- ESCALATION_QUIET_EXPIRY: a quiet period without a report of the source for the instance (R565). -/
def execEscalationQuietExpiry (source : Fin 128) (inst : Nat) (s : State) : Host.Outcome State Fault Refusal :=
  done (s.modBell fun b => { b with esc := Tab.set 0 b.esc (source.val * 256 + inst) 0 })

/-- QUIET_TIMER_EXPIRY: the automatic exit of R582, where it is allowed. During an exit the timer that a new report started is
left to the state the exit ends in. -/
def execQuietTimerExpiry (s : State) : Host.Outcome State Fault Refusal :=
  if !s.bell.quietRunning || s.bell.exit.isSome then done s
  else if s.bell.autoexit && s.bell.fstate != .latched && s.bell.fstate != .normal then done (s.startExit true)
  else done (s.modBell fun b => { b with quietRunning := false })

/-- ALERT_N_MIN_LOW_EXPIRY (R590). -/
def execAlertNMinLowExpiry (s : State) : Host.Outcome State Fault Refusal :=
  done (s.modPins fun p => { p with
    alertMin := false, alertPulse := false, alertLow := p.alertLow && decide (s.bell.fltsum &&& fsAlert ≠ 0) })

/-! ## Self-tests (R583, R586) -/

/-- The self-test of an engine has ended for an exit that waits for it. -/
def FExit.engineDone (x : FExit) (n : Fin 24) (passed : Bool) : FExit :=
  if x.engs.contains n then
    { x with
      engs := x.engs.erase n
      readmitted := if passed then x.readmitted ||| (1#24 <<< n.val) else x.readmitted
      retired := if passed then x.retired else x.retired ||| (1#24 <<< n.val) }
  else x

/-- Take an engine out of the exit under way, and note the result in the masks of QUIET_EXIT. -/
def State.exitEngine (s : State) (n : Fin 24) (passed : Bool) : State :=
  s.modBell fun b => { b with exit := b.exit.map fun x => x.engineDone n passed }

/-- ENGINE_SELF_TEST_DONE: step 1 has power-cycled the island; an engine that passes is re-admitted with its Winograd stage
enabled, one that fails is retired. -/
def execEngineSelfTestDone (eng : Fin 24) (failStep : Fin 6) (s : State) : Host.Outcome State Fault Refusal :=
  let n := eng.val
  if !(s.eng n).testing then done s
  else
    let pass : Bool := failStep.val == 0
    let s := s.modEng n fun e => { e with
      testing := false, readmit := false, barn := {}, stook := [], fg := {}, bg := {}, millKept := [], millBooks := [], lanes := []
      hold := false, fenced := !pass, retired := !pass, winoOff := e.winoOff && !pass, islandOff := e.islandOff && !pass
      idle := false }
    let s := if pass then s else s.record 0x0202 0 n failStep.val 0
    let s := s.exitEngine eng pass
    done (if pass then s.nextTile 3 n else s)

/-- SLICE_SELF_TEST_DONE: a slice that passes is enabled and its remapping ends. -/
def execSliceSelfTestDone (slice : Fin 64) (passed : Bool) (s : State) : Host.Outcome State Fault Refusal :=
  let n := slice.val
  if !(s.slice n).testing then done s
  else
    let s := s.modSlice n fun x => { x with testing := false, disabled := !passed, tags := [], plru := [], bad := [] }
    let s := if passed then s else s.record 0x0202 1 n 1 0
    done (s.modBell fun b => { b with exit := b.exit.map fun x => { x with slices := x.slices.erase slice } })

/-- `ENGCTL.READMIT` (R586, R744): a fenced or retired engine starts its self-test; where RENG names no engine, or one that is
neither, the bit clears at once. -/
def State.readmit (s : State) (n : Nat) : State :=
  if 24 ≤ n ∨ !(s.eng n).fenced ∨ (s.eng n).testing then s
  else s.modEng n fun e => { e with testing := true, readmit := true }

/-- `ENGCTL.READMIT` reads 1 until every self-test that it asked for has ended (R15). -/
def State.readmitting (s : State) : Bool := (List.range 24).any fun n => (s.eng n).readmit

/-! ## `FLTCTL.EXIT` and `FLTINJ` (R585, R594-R597) -/

/-- A write of 1 to `FLTCTL.EXIT`. -/
def State.exitRequest (s : State) : State :=
  if s.bell.fstate == .normal then
    (s.modBell fun b => { b with cflt := false }).record 0x0201 s.bell.count.toNat 1 0 0
  else s.startExit false

/-- Units each target takes (R594). -/
def injUnits (t : Nat) : Nat := if t = 3 then 2 else if t = 2 ∨ t = 6 then 64 else 24

/-- A write of `FLTINJ` (R594, R596, R746). What the fields other than TARGET read after a disarming write is the model's choice: zero
(log 107, DESIGN CHOICE). -/
def State.writeFltinj (s : State) (v : Word) : State :=
  let n := v.toNat
  let t := bitsOf n 3 0
  let u := bitsOf n 9 4
  let c := bitsOf n 23 16
  if !(s.sec.lc = 0x3 || s.sec.lc = 0x9) then s.record 0x0205 n 0 0 0
  else if t = 0 then s.modBell fun b => { b with injTarget := 0, injUnit := 0, injBits := false, injCount := 0, injLeft := 0, injArmed := false }
  else if 8 ≤ t ∨ injUnits t ≤ u ∨ c = 0 then s
  else s.modBell fun b => { b with
    injTarget := BitVec.ofNat 4 t, injUnit := BitVec.ofNat 6 u, injBits := bitOf n 10, injCount := BitVec.ofNat 8 c
    injLeft := BitVec.ofNat 8 c, injArmed := true }

/-- What `FLTINJ` reads (R596, R745). -/
def State.readFltinj (s : State) : Word :=
  if !(s.sec.lc = 0x3 || s.sec.lc = 0x9) then 0
  else BitVec.ofNat 32 (s.bell.injTarget.toNat + s.bell.injUnit.toNat * 16 + (if s.bell.injBits then 1024 else 0) +
    s.bell.injCount.toNat * 65536 + if s.bell.injArmed then 2 ^ 31 else 0)

end Sys2Proof.Machine
end

