-- ==== Sys2Proof/Machine/Watch.lean ====
section
/-! DEFINITION. The Watch: its program image, the checks of a commit, and runs (R657-R666, R704). -/

namespace Sys2Proof.Machine

/-- 256 KiB of Watch memory (R657). -/
def watchSize : Nat := 0x40000

/-- A little-endian field of an image. -/
def imgFld (m : Mem) (o n : Nat) : Nat := leNat (Mem.getBytes 0 m o n)

/-! ## The image (R658-R662) -/

/-- The header (R658). -/
structure WHead where
  version : Nat
  nin : Nat
  nlayer : Nat
  nscore : Nat
  period : Nat
  woff : Nat
  wlen : Nat

/-- An input descriptor (R659). -/
structure WIn where
  src : Nat
  kind : Nat
  chan : Nat
  sh : Nat
  n : Nat
  f : Nat
  dst : Nat
  mul : Int
  zo : Nat
  cidx : Nat
  ccnt : Nat

/-- A layer descriptor (R660). -/
structure WLayer where
  op : Nat
  relu : Bool
  cin : Nat
  cout : Nat
  t : Nat
  kw : Nat
  stride : Nat
  za : Nat
  waddr : Nat
  srca : Nat
  dsta : Nat
  qaddr : Nat

/-- A threshold entry (R662). -/
structure WScore where
  sidx : Nat
  thr : Nat
  le : Bool
  persist : Nat

def wHead (m : Mem) : WHead :=
  { version := imgFld m 0 1, nin := imgFld m 1 1, nlayer := imgFld m 2 1, nscore := imgFld m 3 1, period := imgFld m 4 4
    woff := imgFld m 8 4, wlen := imgFld m 12 4 }

def wIn (m : Mem) (i : Nat) : WIn :=
  let o := 64 + 16 * i
  { src := imgFld m o 1, kind := imgFld m (o + 1) 1, chan := imgFld m (o + 2) 1, sh := imgFld m (o + 3) 1, n := imgFld m (o + 4) 2
    f := imgFld m (o + 6) 2, dst := imgFld m (o + 8) 4, mul := toSigned 8 (imgFld m (o + 12) 1), zo := imgFld m (o + 13) 1
    cidx := imgFld m (o + 14) 1 % 16, ccnt := imgFld m (o + 15) 1 }

def wLayer (m : Mem) (i : Nat) : WLayer :=
  let o := 64 + 16 * (wHead m).nin + 32 * i
  { op := imgFld m o 1, relu := bitOf (imgFld m (o + 1) 1) 0, cin := imgFld m (o + 2) 2, cout := imgFld m (o + 4) 2, t := imgFld m (o + 6) 2
    kw := imgFld m (o + 8) 2, stride := imgFld m (o + 10) 1, za := imgFld m (o + 11) 1, waddr := imgFld m (o + 12) 4
    srca := imgFld m (o + 16) 4, dsta := imgFld m (o + 20) 4, qaddr := imgFld m (o + 24) 4 }

def wScore (m : Mem) (i : Nat) : WScore :=
  let o := 64 + 16 * (wHead m).nin + 32 * (wHead m).nlayer + 8 * i
  { sidx := imgFld m o 2, thr := imgFld m (o + 2) 1, le := bitOf (imgFld m (o + 3) 1) 0, persist := imgFld m (o + 3) 1 / 16 }

/-- Time steps a layer writes (R660). -/
def WLayer.tout (l : WLayer) : Nat := (l.t - l.kw) / l.stride + 1

/-! ## The checks of a commit (R663) -/

/-- Fields of an input in range. -/
def WIn.ok (x : WIn) : Bool :=
  decide (x.src ≤ 5) && decide (x.kind ≤ 1) && decide (x.chan < if x.src < 4 then 8 else 16) &&
    decide (x.sh ≤ if x.kind = 0 then 31 else 63) && decide (1 ≤ x.n) && decide (x.n ≤ 1024) &&
    (if x.kind = 0 then x.f == 1 else decide (1 ≤ x.f) && decide (x.f ≤ 4096)) && decide (x.zo ≤ 15) &&
    decide (1 ≤ x.ccnt) && decide (x.ccnt ≤ 16) && decide (x.cidx < x.ccnt)

/-- Fields of a layer in range. -/
def WLayer.ok (l : WLayer) : Bool :=
  decide (l.op ≤ 2) && decide (1 ≤ l.cin) && decide (l.cin ≤ 1024) && decide (1 ≤ l.cout) && decide (l.cout ≤ 1024) &&
    (l.op == 0 || l.cin == l.cout) && decide (1 ≤ l.t) && decide (l.t ≤ 1024) && decide (1 ≤ l.kw) && decide (l.kw ≤ l.t) &&
    decide (1 ≤ l.stride) && decide (l.stride ≤ 8) && decide (l.za ≤ 15)

/-- Ends of the byte ranges a layer names. -/
def WLayer.ends (l : WLayer) : List Nat :=
  [l.srca + ceilDiv (l.t * l.cin) 2, l.dsta + ceilDiv (l.tout * l.cout) 2] ++
    (if l.op = 0 then [l.waddr + ceilDiv (l.cout * l.kw * l.cin) 2, l.qaddr + 8 * l.cout] else [])

/-- The channels and time steps that the producer of an offset writes, before layer `i`: the latest such layer, else an input. -/
def wProducer (ins : List WIn) (ls : List WLayer) (i a : Nat) : Option (Nat × Nat) :=
  match ((ls.take i).reverse.find? fun l => l.dsta == a) with
  | some l => some (l.cout, l.tout)
  | none => (ins.find? fun x => x.dst == a).map fun x => (x.ccnt, x.n)

/-- Inputs that name one DST agree and fill every channel once. -/
def wInputsAgree (ins : List WIn) : Bool :=
  ins.all fun x =>
    let mates := ins.filter fun y => y.dst == x.dst
    mates.all (fun y => y.n == x.n && y.ccnt == x.ccnt) &&
      (List.range x.ccnt).all fun c => (mates.filter fun y => y.cidx == c).length == 1

/-- The program of an image passes every test of R663, its offsets and extents within `limit` (R704). -/
def watchOk (m : Mem) (limit : Nat) : Bool :=
  let h := wHead m
  h.version == 1 && decide (1 ≤ h.nin) && decide (h.nin ≤ 6) && decide (1 ≤ h.nlayer) && decide (h.nlayer ≤ 16) &&
    decide (1 ≤ h.nscore) && decide (h.nscore ≤ 8) && decide (100 ≤ h.period) && decide (h.period ≤ 10000000) &&
    decide (h.wlen ≤ 196608) && decide (h.woff + h.wlen ≤ limit) && decide (64 + 16 * h.nin + 32 * h.nlayer + 8 * h.nscore ≤ limit) &&
    (let ins := (List.range h.nin).map (wIn m)
     let ls := (List.range h.nlayer).map (wLayer m)
     ins.all WIn.ok && wInputsAgree ins && (ins.all fun x => decide (x.dst + ceilDiv (x.n * x.ccnt) 2 ≤ limit)) &&
       ls.all WLayer.ok && (ls.all fun l => l.ends.all fun e => decide (e ≤ limit)) &&
       ((List.range h.nlayer).all fun i => wProducer ins ls i (wLayer m i).srca == some ((wLayer m i).cin, (wLayer m i).t)) &&
       ((List.range h.nscore).all fun i =>
         let x := wScore m i
         let l := wLayer m (h.nlayer - 1)
         decide (x.sidx < l.cout * l.tout) && decide (x.thr ≤ 15) && decide (1 ≤ x.persist)))

/-! ## Runs (R659-R661, R665) -/

/-- The code in a nibble of Watch memory. -/
def nib (m : Mem) (k : Nat) : Nat := let b := (Tab.get 0 m (k / 2)).toNat; if k % 2 = 0 then b % 16 else b / 16

/-- Store a nibble. -/
def putNib (m : Mem) (k v : Nat) : Mem :=
  let b := (Tab.get 0 m (k / 2)).toNat
  Tab.set 0 m (k / 2) (BitVec.ofNat 8 (if k % 2 = 0 then b / 16 * 16 + v % 16 else b % 16 + v % 16 * 16))

/-- Clamp an integer to a code range. -/
def clampCode (lo : Nat) (x : Int) : Nat := if x < lo then lo else if 15 < x then 15 else x.toNat

/-- Code `t` of an input from the samples of its channel, oldest first (R659). A code for which the samples have not arrived yet is
open (log 1). -/
def WIn.code (x : WIn) (hist : List Int) (fresh t : Nat) : Nat :=
  let frames := hist.length / x.f
  if frames + t < x.n then Config.freeNat (fresh + t) % 16
  else
    let k := frames + t - x.n
    if x.kind = 0 then clampCode 0 (((hist[k]?).getD 0 * x.mul).fdiv (2 ^ x.sh : Nat) + x.zo)
    else
      let e := ((hist.drop (k * x.f)).take x.f).foldl (fun a v => a + v * v) (0 : Int)
      clampCode 0 ((Nat.log2 (e.toNat + 1) : Int) - x.sh)

/-- Copy the input codes (R665 step 1). -/
def State.watchInputs (s : State) (m0 : Mem) : Mem :=
  (List.range (wHead m0).nin).foldl (fun m i =>
    let x := wIn m0 i
    let h := Tab.get [] s.watch.hist (16 * x.src + x.chan)
    (List.range x.n).foldl (fun m t => putNib m (2 * x.dst + t * x.ccnt + x.cidx) (x.code h (s.fresh + 1024 * i) t)) m) m0

/-- The accumulator of CONV1D (R660). -/
def WLayer.acc (l : WLayer) (m : Mem) (t n : Nat) : Int :=
  (List.range l.kw).foldl (fun a k => (List.range l.cin).foldl (fun a c =>
    a + ((nib m (2 * l.srca + (t * l.stride + k) * l.cin + c) : Int) - l.za) *
      toSigned 4 (nib m (2 * l.waddr + (n * l.kw + k) * l.cin + c))) a) 0

/-- Requantisation (R661). -/
def wRequant (m : Mem) (qaddr n : Nat) (relu : Bool) (acc : Int) : Nat :=
  let r := imgFld m (qaddr + 8 * n) 8
  let mul := bitsOf r 47 32
  let sh := bitsOf r 52 48
  let zo := bitsOf r 59 56
  let h : Nat := if sh = 0 then 0 else 2 ^ (sh - 1)
  clampCode (if relu then zo else 0) (((acc + toSigned 32 (bitsOf r 31 0)) * mul + h).fdiv (2 ^ sh : Nat) + zo)

/-- The output code of a layer. -/
def WLayer.out (l : WLayer) (m : Mem) (t n : Nat) : Nat :=
  if l.op = 0 then wRequant m l.qaddr n l.relu (l.acc m t n)
  else
    let w := (List.range l.kw).map fun k => nib m (2 * l.srca + (t * l.stride + k) * l.cin + n)
    if l.op = 1 then w.foldl max 0 else (2 * w.foldl (· + ·) 0 + l.kw) / (2 * l.kw)

/-- Run one layer: every output is computed from the codes before the layer writes. -/
def WLayer.run (l : WLayer) (m : Mem) : Mem :=
  (List.range l.tout).foldl (fun o t => (List.range l.cout).foldl (fun o n => putNib o (2 * l.dsta + t * l.cout + n) (l.out m t n)) o) m

/-- Watch cycles of a run (R665). -/
def watchCycles (m : Mem) : Nat :=
  let h := wHead m
  64 + ceilDiv ((List.range h.nin).foldl (fun a i => a + (wIn m i).n) 0) 16 +
    (List.range h.nlayer).foldl (fun a i =>
      let l := wLayer m i
      a + if l.op = 0 then ceilDiv (l.cin * l.kw) 32 * ceilDiv l.cout 64 * (24 + l.tout) else ceilDiv l.cin 64 * l.tout * l.kw) 0

/-- The score that a threshold entry compares. -/
def wScoreOf (m : Mem) (i : Nat) : Nat := nib m (2 * (wLayer m ((wHead m).nlayer - 1)).dsta + (wScore m i).sidx)

/-- A Watch trigger (R666). -/
def State.watchTrigger (s : State) : State :=
  let p := s.dev.pstate
  if p == psActive || p == psIdle then s.setIrq irqWatch
  else
    let s := s.wake wkWatch
    if p == psRestoring then s.modPower fun w => { w with watchDue := true } else s

/-- Compare the score of one entry (R666). -/
def State.watchScore (s : State) (m : Mem) (i : Nat) : State :=
  let x := wScore m i
  let v := wScoreOf m i
  if (if x.le then decide (v ≤ x.thr) else decide (x.thr ≤ v)) then
    let n := Tab.get 0 s.watch.counts i + 1
    if x.persist ≤ n then
      let s := s.modWatch fun w => { w with
        counts := Tab.set 0 w.counts i 0, trig := w.trig ||| (1#8 <<< i)
        scores := (List.range (wHead m).nscore).foldl (fun t k => Tab.set 0 t k (BitVec.ofNat 4 (wScoreOf m k))) [] }
      (s.bump 13 0 1 1).watchTrigger
    else s.modWatch fun w => { w with counts := Tab.set 0 w.counts i n }
  else s.modWatch fun w => { w with counts := Tab.set 0 w.counts i 0 }

/-- WATCH_RUN: one run. The image is the active table's; Watch memory keeps the codes. A run longer than PERIOD delays the next
one. -/
def execWatchRun (s : State) : Host.Outcome State Fault Refusal :=
  if !s.power.wen || !s.watch.active || s.dev.pstate == psOff then done s
  else
    let m := s.watchInputs s.watch.mem
    let h := wHead m
    let m := (List.range h.nlayer).foldl (fun m i => (wLayer m i).run m) m
    let s := (s.used (1024 * h.nin)).modWatch fun w => { w with mem := m }
    let s := if h.period * s.watchMHz < watchCycles m then s.bump 13 0 2 1 else s
    done ((List.range h.nscore).foldl (fun s i => s.watchScore m i) (s.bump 13 0 0 1))

end Sys2Proof.Machine
end

