-- ==== Sys2Proof/Machine/Tables.lean ====
section
/-! DEFINITION. The expert tables behind `TBLSEL`, `TBLADDR` and `TBLDATA`, the security buffer and the counters (R47-R52, R563, R636,
R663, R687, R704, R751-R757). -/

namespace Sys2Proof.Machine

/-! ## Which table -/

/-- The table a path's `TBLSEL.SEL` names: 1 to 4, and 16 + port for a gate control list (R752). -/
def State.tabIdx (s : State) (p : Path) : Option Nat :=
  let c := s.ctx p
  if c.sel = 1 ∨ c.sel = 2 ∨ c.sel = 3 ∨ c.sel = 4 then some c.sel.toNat
  else if c.sel = 5 ∧ c.portsel.toNat < 8 then some (16 + c.portsel.toNat)
  else none

/-- Bytes of a table (R562, R636, R657, R506, R510). -/
def tabSize (i : Nat) : Nat :=
  if i = 1 then 1024 else if i = 2 then 64 else if i = 3 then watchSize else if i = 4 then 16384 else 64 + 256 * 8

/-- The default DELAY of a restore entry in µs (R637). -/
def restoreDefault (e : Nat) : Nat := if e = 0 then 0 else if 9 ≤ e ∧ e ≤ 14 then 20 else 10

/-- A byte of the basic-derived version. The basic gate control list holds no list and reads zero (log 24). -/
def tabDerived (i cfg k : Nat) : Byte :=
  if i = 1 then reactDerived cfg k
  else if i = 2 then (if k % 4 < 2 then BitVec.ofNat 8 (restoreDefault (k / 4) / 256 ^ (k % 4)) else 0)
  else 0

/-- Bits of byte `k` of a table that its format defines; the others read as zero (R14, R506, R507, R509, R510, R537, R562, R636). Watch
memory is a memory image and keeps every bit (log 108). -/
def tabMask (i k : Nat) : Byte :=
  let among (l : List (Nat × Byte)) (end_ j : Nat) : Byte :=
    if end_ ≤ j then 0 else (((l.find? fun x => x.1 == j).map fun x => x.2).getD 0xFF)
  if i = 1 then among [(1, 0x3F), (2, 0x0F), (3, 0x03)] 4 (k % 8)
  else if i = 2 then among [] 2 (k % 4)
  else if i = 4 then
    if k < 432 * 32 then among [(0, 0x3F), (5, 0x7F), (21, 0x0F), (23, 0x0F)] 24 (k % 32)
    else if k < 496 * 32 then among [(0, 0x07), (1, 0)] 20 (k % 32)
    else among [(0, 0x07), (9, 0), (14, 0), (15, 0)] 22 (k % 32)
  else if 16 ≤ i then
    if k < 64 then among [] 30 k else among [(1, 0), (2, 0), (3, 0)] 8 (k % 8)
  else 0xFF

/-- A byte of the staging copy. -/
def Table.stagingByte (t : Table) (i k : Nat) : Byte :=
  match Tab.get none t.staging k with
  | some b => b
  | none => if t.expert then Tab.get 0 t.active k else tabDerived i t.cfg k

/-- The whole staging copy, as the table a commit makes active. -/
def Table.stagingMem (t : Table) (i : Nat) : Mem := Mem.setBytes 0 [] 0 ((List.range (tabSize i)).map (t.stagingByte i))

/-- The register fields a table derives from now (R51, R567). -/
def State.tabCfg (s : State) (i : Nat) : Nat := if i = 1 then s.reactCfg else 0

/-! ## Commits and reverts (R50, R51, R563, R663, R704) -/

/-- Bytes of the security buffer. -/
def State.secBytes (s : State) (o n : Nat) : List Byte := Mem.getBytes 0 s.sec.secbuf o n

/-- The staged Watch program may become active: the tests of R663, and in FIELD the signature record of R704. -/
def State.watchCommitOk (s : State) (m : Mem) : Bool :=
  if s.sec.lc = 0x5 then
    let slen := leNat (s.secBytes 0 4)
    decide (slen ≤ watchSize) && watchOk m slen &&
      (match s.ownerKeyNow with
        | some k => Config.slhVerify k (Mem.getBytes 0 m 0 slen) (s.secBytes 64 16224)
        | none => false)
  else watchOk m watchSize

/-- Every entry of a staged reaction table is legal (R563). -/
def reactOk (f : Nat → Nat) : Bool :=
  (List.range 128).all fun c => entryLegal c (reactOf (f (8 * c)) (f (8 * c + 1)) (f (8 * c + 2)) (f (8 * c + 3)))

/-- Make the staging copy the active table. -/
def State.tabActivate (s : State) (i : Nat) : State :=
  let m := (s.table i).stagingMem i
  let s := s.modTable i fun t => { t with expert := true, active := m, staging := [], refused := false, commit := false }
  if i = 3 then
    let slen := if s.sec.lc = 0x5 then some (leNat (s.secBytes 0 4)) else none
    s.modWatch fun w => { w with mem := m, active := true, slen := slen, counts := [] }
  else s

/-- The GATES byte of entry `e` of a port's active list. -/
def State.gateEntry (s : State) (port e : Nat) : Byte := Tab.get 0 (s.table (16 + port)).active (64 + 8 * e)

/-- A little-endian field of the header of a staged list. -/
def Table.gateFld (t : Table) (i o n : Nat) : Nat := leNat ((List.range n).map fun k => t.stagingByte i (o + k))

/-- The configuration change time of a staged list in ns, under the rules of IEEE 802.1Qbv (R50, R510; log 109, PRESUMED): AdminBaseTime
where it has not passed, else the first later time that is a whole number of cycles after it. -/
def Table.gateChange (t : Table) (i now : Nat) : Nat :=
  let base := t.gateFld i 0 6 * 1000000000 + t.gateFld i 6 4
  let cycle := t.gateFld i 10 4
  if now ≤ base ∨ cycle = 0 then base else base + ceilDiv (now - base) cycle * cycle

/-- A write of 1 to `TBLSEL.COMMIT`. A restore delay table committed while an exit is under way takes effect when it ends; a gate
control list waits for its configuration change time, with the initial gate states until then (R50). -/
def State.tabCommit (s : State) (i : Nat) : State :=
  let t := s.table i
  let ok : Bool :=
    if i = 1 then reactOk fun k => (t.stagingByte 1 k).toNat
    else if i = 3 then s.watchCommitOk (t.stagingMem 3)
    else true
  if t.commit then s
  else if !ok then s.setTable i { t with refused := true }
  else if i = 2 && s.dev.pstate == psRestoring then s.setTable i { t with commit := true }
  else if 16 ≤ i then
    let s := (s.setTable i { t with commit := true, change := t.gateChange i s.now }).tick
    if t.expert then s else s.setGates (i - 16) (t.stagingByte i 20)
  else s.tabActivate i

/-- A write of 1 to `TBLSEL.REVERT`. -/
def State.tabRevert (s : State) (i : Nat) : State :=
  let s := s.setTable i { cfg := s.tabCfg i, refused := (s.table i).refused }
  if i = 3 then s.modWatch fun w => { w with mem := [], active := false, slen := none, counts := [] }
  else if 16 ≤ i then (s.modPort (i - 16) fun p => { p with gatePos := 0 }).setGates (i - 16) 0xFF
  else s

/-- Restore the basic-derived version of a table that a HEARTH_SRAM report located (R52). -/
def State.tabRestore (s : State) (i : Nat) : State :=
  if (s.table i).expert then ((s.tabRevert i).modTable i fun t => { t with refused := false }).record 0x0204 (if 16 ≤ i then 5 else i) 0 0 0
  else s

/-- A write of `TBLSEL` (R751, R754). Where one write sets both COMMIT and REVERT, which acts last is open (log 1). -/
def State.writeTblsel (s : State) (p : Path) (v : Word) : State :=
  let n := v.toNat
  let s := s.modCtx p fun c => { c with sel := BitVec.ofNat 8 (bitsOf n 7 0), ainc := bitOf n 12 }
  match s.tabIdx p with
  | none => s
  | some i =>
    if bitOf n 8 && bitOf n 9 then
      if s.free % 2 = 0 then (s.used.tabRevert i).tabCommit i else (s.used.tabCommit i).tabRevert i
    else if bitOf n 8 then s.tabCommit i
    else if bitOf n 9 then s.tabRevert i
    else s

/-- What `TBLSEL` reads. -/
def State.readTblsel (s : State) (p : Path) : Word :=
  let c := s.ctx p
  let f : Nat := match s.tabIdx p with
    | some i =>
      let t := s.table i
      (if t.commit then 256 else 0) + (if t.expert then 1024 else 0) + (if t.refused then 2048 else 0)
    | none => 0
  BitVec.ofNat 32 (c.sel.toNat + f + if c.ainc then 4096 else 0)

/-! ## Counters (R755-R757) -/

/-- Instances and counters of each group (R757). -/
def ctrGroup (g : Nat) : Nat × Nat :=
  match g with
  | 0 => (24, 37)
  | 1 => (1, 3)
  | 2 => (64, 5)
  | 3 => (64, 1)
  | 4 => (192, 4)
  | 5 => (8, 6)
  | 6 => (64, 1)
  | 7 => (128, 3)
  | 8 => (64, 1)
  | 9 => (32, 3)
  | 10 => (16, 4)
  | 11 => (128, 2)
  | 12 => (1, 4)
  | 13 => (1, 5)
  | _ => (0, 0)

/-- A read of a counter word: the value and the path's snapshot. -/
def State.readCtr (s : State) (p : Path) (addr : Nat) : Word × State :=
  let g := bitsOf addr 31 16
  let i := bitsOf addr 15 8
  let c := bitsOf addr 7 1
  if (ctrGroup g).1 ≤ i ∨ (ctrGroup g).2 ≤ c then (0, s)
  else if bitOf addr 0 then (BitVec.ofNat 32 ((s.ctx p).csnap.toNat / 2 ^ 32), s)
  else
    let v := s.ctr g i c
    (v.setWidth 32, s.modCtx p fun x => { x with csnap := v })

/-! ## `TBLDATA` -/

/-- DRAM bytes that recovery admits: 0 to 0x2FF_FFFF (R683). -/
def recoveryBytes : Nat := 0x3000000

/-- `TBLADDR` after an access (R751). -/
def State.tblAdvance (s : State) (p : Path) : State :=
  s.modCtx p fun c => if c.ainc then { c with tbladdr := c.tbladdr + 1 } else c

/-- A write of `TBLDATA` (R49, R683, R687, R752-R754). -/
def State.writeTbldata (s : State) (p : Path) (v : Word) : State :=
  let c := s.ctx p
  let k := 4 * c.tbladdr.toNat
  let bs := leBytes 4 v.toNat
  let s := match s.tabIdx p with
    | some i =>
      if (s.table i).commit || decide (tabSize i < k + 4) then s
      else s.modTable i fun t => { t with
        staging := (List.range 4).foldl (fun m j => Tab.set none m (k + j) (some ((bs[j]?.getD 0) &&& tabMask i (k + j)))) t.staging }
    | none =>
      if c.sel = 6 ∧ k < 49152 then s.modSec fun x => { x with secbuf := Mem.setBytes 0 x.secbuf k bs }
      else if c.sel = 7 ∧ s.sec.recoveryMode ∧ k < recoveryBytes then s.write k bs
      else s
  s.tblAdvance p

/-- A read of `TBLDATA`. -/
def State.readTbldata (s : State) (p : Path) : Word × State :=
  let c := s.ctx p
  let k := 4 * c.tbladdr.toNat
  let r : Word × State := match s.tabIdx p with
    | some i =>
      if tabSize i < k + 4 then (0, s)
      else (BitVec.ofNat 32 (leNat ((List.range 4).map fun j => (s.table i).stagingByte i (k + j))), s)
    | none =>
      if c.sel = 6 then (if k < 49152 then BitVec.ofNat 32 (leNat (s.secBytes k 4)) else 0, s)
      else if c.sel = 7 ∧ s.sec.recoveryMode ∧ k < recoveryBytes then (BitVec.ofNat 32 (leNat (s.bytes k 4)), s)
      else if c.sel = 8 then s.readCtr p c.tbladdr.toNat
      else (0, s)
  (r.1, r.2.tblAdvance p)

/-! ## Gate control lists (R510) -/

/-- GATE_STATE_CHANGE: a committed list whose change time has come replaces the running one with its first entry; otherwise the
running list goes to its next entry. -/
def execGateStateChange (port : Fin 8) (s : State) : Host.Outcome State Fault Refusal :=
  let i := 16 + port.val
  let t := s.table i
  if !s.netUp then done s
  else if t.commit && decide (t.change ≤ s.now) then
    let s := s.tick.tabActivate i
    done ((s.modPort port.val fun p => { p with gatePos := 0 }).setGates port.val (s.gateEntry port.val 0))
  else
    let s := if t.commit then s.tick else s
    if t.expert then
      let n := leNat (Mem.getBytes 0 t.active 18 2)
      let pos := ((s.port port.val).gatePos + 1) % max 1 (min 256 n)
      done ((s.modPort port.val fun p => { p with gatePos := pos }).setGates port.val (s.gateEntry port.val pos))
    else done s

end Sys2Proof.Machine
end

