-- ==== Sys2Proof/Machine/Boot.lean ====
section
/-! DEFINITION. PORST_N, the boot, and resets of the whole part (R490, R645, R678-R686, R756, R772). -/

namespace Sys2Proof.Machine

/-! ## Images (R679, R680, R682) -/

/-- `n` bytes of an image. -/
def imgBytes (f : Nat → Byte) (o n : Nat) : List Byte := (List.range n).map fun i => f (o + i)

/-- SVN of an image. -/
def imgSvn (f : Nat → Byte) : Nat := (f 1).toNat

/-- The result of the checks of R680 for an image read through `f`: 0 OK, 1 FORMAT, 2 SIGNATURE, 3 ROLLBACK, 4 HASH, the first
test in the order of R682 that fails. -/
def imageResult (f : Nat → Byte) (svf : Nat) : Nat :=
  let n (o k : Nat) : Nat := leNat (imgBytes f o k)
  let len := n 4 4
  if n 0 1 ≠ 1 ∨ 64 < imgSvn f ∨ n 2 2 ≠ 0 ∨ n 48 16 ≠ 0 ∨ len = 0 ∨ 33554432 < len ∨ 0x4000000 ≤ 0x4000 + n 40 4 ∨ 0x4000000 ≤ 0x4000 + n 44 4 then 1
  else if !Config.slhVerify Config.vendorKey (imgBytes f 0 64) (imgBytes f 64 16224) then 2
  else if imgSvn f < svf then 3
  else if Config.sha256 (imgBytes f 0x4000 len) ≠ BitVec.ofNat 256 (n 8 32) then 4
  else 0

/-- The result of a boot slot; the shipped image is a valid vendor image (R786), so only its SVN can fail. -/
def BootSlot.check (b : BootSlot) (svf : Nat) : Nat :=
  if b.factory then (if Config.shippedSvn < svf then 3 else 0) else imageResult b.byte svf

/-- SHA-256 of the firmware component at the offset that header byte `o` gives. -/
def fwHash (f : Nat → Byte) (o : Nat) : BitVec 256 :=
  let off := leNat (imgBytes f o 4)
  Config.sha256 (imgBytes f (0x4000 + off) (Config.fwLength (imgBytes f 0 64) off))

/-! ## The boot (R681) -/

/-- Stage 1 of an image: measurements, the new EPOCH (R490), the BOOT record, BOOTOK. -/
def State.stage1 (s : State) (slot : Nat) (f : Nat → Byte) : State :=
  let e : Word := if s.sec.storedEpoch + 1 = 0 then 1 else s.sec.storedEpoch + 1
  let s := s.modSec fun c => { c with
    recoveryMode := false, storedEpoch := e, m0 := Config.sha256 (imgBytes f 0 64), m1 := fwHash f 40, m2 := fwHash f 44 }
  let s := s.storeProgrammed
  let s := s.modDev fun d => { d with epoch := e, bootSlot := BitVec.ofNat 2 slot, bootSvn := BitVec.ofNat 7 (imgSvn f) }
  let s := s.record 0x0001 slot (imgSvn f) s.dev.resA.toNat s.dev.resB.toNat
  s.modDev fun d => { d with bootok := true, pstate := psActive }

/-- A slot as a function of its offset. -/
def State.slotByte (s : State) (slot : Nat) : Nat → Byte := if slot = 0 then s.sec.slotA.byte else s.sec.slotB.byte

/-- Steps 2 to 8 of R681 with the latched BOOTSEL. -/
def State.boot (s : State) : State :=
  if s.sec.lc = 0xF then s.modDev fun d => { d with resA := 6, resB := 6 }
  else
    let bs := s.sec.bootsel
    let candA : Bool := bs = 0 || bs = 1
    let candB : Bool := bs = 0 || bs = 2
    let ra := s.sec.slotA.check s.sec.svf
    let rb := s.sec.slotB.check s.sec.svf
    let va : Bool := candA && ra == 0
    let vb : Bool := candB && rb == 0
    let pickA : Bool := va && (!vb || decide (imgSvn s.sec.slotB.byte ≤ imgSvn s.sec.slotA.byte))
    let res (cand valid picked : Bool) (r : Nat) : BitVec 3 := if !cand || (valid && !picked) then 5 else BitVec.ofNat 3 r
    let s := s.modDev fun d => { d with resA := res candA va pickA ra, resB := res candB vb (vb && !pickA) rb }
    if pickA then s.stage1 0 (s.slotByte 0)
    else if vb then s.stage1 1 (s.slotByte 1)
    else s.modSec fun c => { c with recoveryMode := true }

/-! ## Resets of every domain -/

/-- What an erase of the Parish Book region that is cut leaves (R611): the lowest records, how many is open. -/
def State.cutErase (s : State) : State :=
  if s.book.erasing then
    let k := s.free % (s.book.regn + 1)
    (s.modBook fun b => { b with erasing := false, region := b.region.filter fun r => decide (r.1 < k), regn := k, full := false }).used
  else s

/-- Every domain takes its reset value, the Hearth included. Flash, fuses, the straps, the TAP and the levels of the supply pins are
not reset; the frames on the wire and the model's own counts go on. -/
def State.coldReset (s : State) : State :=
  let s := s.cutErase
  { State.reset with
    pending := s.pending, fresh := s.fresh, tx := s.tx
    dev := { opsecs := s.sec.storedOpsecs, pcycles := s.sec.storedPcycles, id := s.dev.id, clk := s.dev.clk }
    book := { region := s.book.region, regn := s.book.regn, full := decide (16384 ≤ s.book.regn), pfailArmed := s.book.pfailArmed }
    power := { pfail := s.power.pfail, belowPF := s.power.belowPF, inhibit := s.power.inhibit, vauxWasOk := s.power.vauxWasOk
               vauxMayFail := s.power.vauxMayFail, nvCut := s.power.nvCut, brownout := s.power.brownout, boState := s.power.boState
               tj := s.power.tj, lastbo := s.power.lastbo }
    sec := { lc := s.sec.lc, dsWritten := s.sec.dsWritten, okh := s.sec.okh, svf := s.sec.svf, ownerKey := s.sec.ownerKey
             policy := s.sec.policy, cak := s.sec.cak, storedEpoch := s.sec.storedEpoch, storedOpsecs := s.sec.storedOpsecs
             storedPcycles := s.sec.storedPcycles, slotA := s.sec.slotA, slotB := s.sec.slotB, user := s.sec.user
             tapIr := s.sec.tapIr, bscan := s.sec.bscan, bcells := s.sec.bcells, bootsel := s.sec.bootsel } }

/-- PCYCLES counts the power-ups of VAUX (R734): where VAUX fell below the inhibit, whether it was lost is open (log 26). -/
def State.countPowerUp (s : State) : State :=
  if s.power.vauxMayFail then
    let lost : Bool := s.free % 2 == 1
    let s := s.used.modPower fun p => { p with vauxMayFail := false }
    if lost then
      let n := s.dev.pcycles + 1
      (s.modDev fun d => { d with pcycles := n }).modSec fun c => { c with storedPcycles := n }
    else s
  else s

/-- A reset of the whole part, and the boot. While VAUX is below the inhibit or the Hearth browns out, it is held in reset (R645,
R772). -/
def State.resetBoot (s : State) : State :=
  let s := s.coldReset
  if s.power.inhibit then s.modPower fun p => { p with bootHeld := true }
  else if s.power.brownout then s
  else s.countPowerUp.boot

/-- The same as a Hearth brown-out does it (R645, R686): the BROWNOUT record follows the reboot. -/
def State.brownoutBoot (s : State) (pstate : Nat) : State :=
  ((s.modPower fun p => { p with lastbo := true }).resetBoot).record 0x0301 pstate 0 0 0

/-- PORST_N is released: straps are taken, a flush that the Hearth's reset waited for ends first, and the part boots. -/
def execPorstN (bootsel : BitVec 2) (devaddr : BitVec 6) (s : State) : Host.Outcome State Fault Refusal :=
  let s := State.programAll (s.book.buf.length + 1) s
  let s := s.modSec fun c => { c with bootsel := bootsel }
  let s := (s.modDev fun d => { d with id := devaddr }).modPower fun p => { p with lastbo := p.brownout }
  done s.resetBoot

/-- PORST_N is asserted (R772): every domain resets; a flush under way goes on to its end before the Hearth resets. -/
def execPorstNAsserted (s : State) : Host.Outcome State Fault Refusal :=
  if s.book.flushing && !s.power.inhibit then
    let b := s.book
    done ({ s.coldReset with book := { b with resetWaits := true } })
  else done s.coldReset

/-- HEARTH_BROWNOUT: the part resets and is held in reset until VHRT_OK (R645). The Hearth stops any flush. -/
def execHearthBrownout (s : State) : Host.Outcome State Fault Refusal :=
  let p := s.dev.pstate
  let s := s.cutFlush
  done ((s.modPower fun w => { w with brownout := true, boState := if w.brownout then w.boState else p, lastbo := true }).coldReset)

/-- VHRT_OK: the reset is released and the part reboots; the Steward writes the BROWNOUT record (R641, R645). -/
def execVhrtOk (s : State) : Host.Outcome State Fault Refusal :=
  if s.power.brownout then
    let p := s.power.boState.toNat
    done ((s.modPower fun w => { w with brownout := false }).brownoutBoot p)
  else done s

end Sys2Proof.Machine
end

