-- ==== Sys2Proof/Machine/Security.lean ====
section
/-! DEFINITION. The security buffer's operations: tokens, attestation, images, lifecycle, debug, updates (R671-R718). -/

namespace Sys2Proof.Machine

/-! ## Results (R690) -/

def arOk : Nat := 0
def arBadsig : Nat := 1
def arNonce : Nat := 2
def arState : Nat := 3
def arFormat : Nat := 4
def arBusy : Nat := 5
def arInhibit : Nat := 6
def arRollback : Nat := 7
def arFull : Nat := 8
def arPower : Nat := 9
def arPolicy : Nat := 10

/-- A byte list as a number, and a digest as bytes. -/
def bv256 (bs : List Byte) : BitVec 256 := BitVec.ofNat 256 (leNat bs)
def digest (h : BitVec 256) : List Byte := leBytes 32 h.toNat

/-- Write bytes of the security buffer. -/
def State.putSec (s : State) (o : Nat) (bs : List Byte) : State := s.modSec fun c => { c with secbuf := Mem.setBytes 0 c.secbuf o bs }

/-- The code of a path in records (R718). -/
def pathCode (p : Path) : Nat :=
  match p with
  | .bus => 0
  | .tap => 2
  | .onchip => 0
  | .port _ => 1

/-! ## Tokens (R692-R694) -/

/-- A token and its signature. -/
structure Token where
  version : Nat
  purpose : Nat
  signer : Nat
  rsv : Nat
  uid : Nat
  nonce : BitVec 256
  arg : Nat
  payload : List Byte
  body : List Byte
  sig : List Byte

/-- The token at an offset of the buffer. -/
def State.token (s : State) (o : Nat) : Token :=
  let b := s.secBytes o 128
  { version := fld b 0 1, purpose := fld b 1 1, signer := fld b 2 1, rsv := fld b 3 1, uid := fld b 4 16, nonce := bv256 ((b.drop 20).take 32)
    arg := fld b 52 4, payload := b.drop 56, body := b, sig := s.secBytes (o + 128) 16224 }

/-- The signer is admitted for the purpose in the lifecycle state (R693). -/
def signerOk (lc purpose signer : Nat) : Bool :=
  let prov : Bool := lc == 3
  let fld : Bool := lc == 5
  let ret : Bool := lc == 9
  let v : Bool := signer == 0
  let o : Bool := signer == 1
  if purpose = 1 then (v && (prov || ret)) || (o && fld)
  else if purpose = 2 then v && ret
  else if purpose = 3 then v && lc == 0
  else if purpose = 4 then o && prov
  else if purpose = 5 then v && (prov || fld)
  else if purpose = 6 then o && fld
  else if purpose = 7 then (v && lc != 15) || (o && fld)
  else if purpose = 8 ∨ purpose = 9 then (v && prov) || (o && fld)
  else if purpose = 10 then o && fld
  else if purpose = 11 then (v && (prov || ret)) || (o && fld)
  else false

/-- Payload bytes a purpose uses (R693). -/
def payloadUsed (purpose : Nat) : Nat := if purpose = 4 then 48 else if purpose = 9 then 49 else if purpose = 10 then 8 else 0

/-- The key a token is checked under: for OWN the key it carries (R693). -/
def State.tokenKey (s : State) (t : Token) : Option (List Byte) :=
  if t.signer = 0 then some Config.vendorKey
  else if t.purpose = 4 then some (t.payload.take 48)
  else s.ownerKeyNow

/-- The tests of R693 and R694 that a token fails. -/
def State.tokenFails (s : State) (t : Token) (purposes : List Nat) : List Nat :=
  let fresh : Bool := match s.sec.nonce with
    | some (n, at_) => n == t.nonce && decide (s.now ≤ at_.toNat + 60000000000)
    | none => false
  let sigOk : Bool := match s.tokenKey t with
    | some k => Config.slhVerify k t.body t.sig
    | none => false
  (if t.version ≠ 1 ∨ t.rsv ≠ 0 ∨ 1 < t.signer ∨ leNat (t.payload.drop (payloadUsed t.purpose)) ≠ 0 then [arFormat] else []) ++
    (if t.uid ≠ Config.uid.toNat ∨ !fresh then [arNonce] else []) ++ (if sigOk then [] else [arBadsig]) ++
    (if purposes.contains t.purpose && signerOk s.sec.lc.toNat t.purpose t.signer then [] else [arState])

/-- VAUX is below VAUX_PF, so an operation that writes flash or fuses ends INHIBIT (R690). -/
def State.nvBlocked (s : State) : Bool := s.power.belowPF || s.power.inhibit

/-- The end of a token operation: the nonce is consumed; where several tests fail, which of their results is given is open
(log 25). -/
def State.tokenOp (s : State) (p : Path) (op : Nat) (purposes : List Nat) (more : Token → List Nat) (act : Token → State → State) : State :=
  let t := s.token 0
  let fails := s.tokenFails t purposes ++ more t
  let s := s.tick.modSec fun c => { c with nonce := none }
  match fails[s.free % max 1 fails.length]? with
  | some r => s.used.authFail op r t.purpose (pathCode p)
  | none => act t s

/-! ## CHALLENGE and ATTEST (R689, R694-R696) -/

/-- A fresh nonce from the random source, whose value is open (log 1), and the UID. -/
def State.challenge (s : State) : State :=
  let n := (List.range 32).map fun i => Config.freeByte (s.fresh + i)
  let s := (s.used 32).tick
  let s := s.modSec fun c => { c with nonce := some (bv256 n, s.dev.time) }
  ((s.putSec 0 n).putSec 32 (leBytes 16 Config.uid.toNat)).authEnd arOk

/-- The words of R733 and R735 that the report repeats. -/
def revidWord : Word := 0x0000B001
def capsWord : Word := 0x08102018 ||| if Config.gradeX then 0x20 else 0

/-- An entry of the verified-region table (R700). -/
def regionBytes (r : Option (Addr × Word)) : List Byte :=
  match r with
  | some (a, n) => leBytes 6 a.toNat ++ [0, 0] ++ leBytes 4 n.toNat ++ [1, 0, 0, 0]
  | none => List.replicate 16 0

/-- The key material of the device identity (R676). -/
def identitySeed : List Byte :=
  let tag : List Byte := [0x43, 0x47, 0x2D, 0x49, 0x44]
  digest (Config.hmacSha256 Config.ds (tag ++ [1])) ++ (digest (Config.hmacSha256 Config.ds (tag ++ [2]))).take 16

/-- M4 (R704). -/
def State.m4 (s : State) : List Byte :=
  if s.watch.active then digest (Config.sha256 (Mem.getBytes 0 (s.table 3).active 0 (s.watch.slen.getD watchSize))) else List.replicate 32 0

/-- The 512-byte report body. -/
def State.report (s : State) (nonce : List Byte) : List Byte :=
  [1, BitVec.ofNat 8 s.sec.lc.toNat, BitVec.ofNat 8 (BitVec.toNat s.sec.debug), BitVec.ofNat 8 s.dev.bootSlot.toNat] ++ leBytes 4 s.dev.epoch.toNat ++
    leBytes 4 s.dev.opsecs.toNat ++ leBytes 4 s.dev.pcycles.toNat ++ leBytes 4 revidWord.toNat ++ leBytes 4 capsWord.toNat ++
    leBytes 4 s.sec.svf ++ leBytes 16 Config.uid.toNat ++ nonce ++ (Config.slhPublic identitySeed).take 32 ++ digest s.sec.m0 ++
    digest s.sec.m1 ++ digest s.sec.m2 ++
    (match s.policyNow with
      | some q => digest (Config.sha256 (leBytes 8 q.toNat))
      | none => List.replicate 32 0) ++ s.m4 ++
    digest (Config.sha256 (((List.range 16).map fun i => regionBytes (Tab.get none s.sec.regions i)).flatten)) ++
    (match s.sec.okh with
      | some h => digest h
      | none => List.replicate 32 0) ++ List.replicate 180 0

/-- The report and its signature at buffer byte 0, once the power state has settled (R696). -/
def State.attestNow (s : State) : State :=
  let p := s.dev.pstate
  if !(s.sec.lc = 0x3 || s.sec.lc = 0x5) then s.authEnd arState
  else if p == psWatch then s.authEnd arPower
  else if p == psEntering || p == psRestoring then s.modSec fun c => { c with attestWait := true }
  else
    let b := s.report (s.secBytes 0 32)
    ((s.putSec 0 b).putSec 512 ((Config.slhSign identitySeed b).take 17088)).authEnd arOk

/-- A waiting ATTEST, when the power state has settled. -/
def State.attestSettle (s : State) : State :=
  if s.sec.attestWait then (s.modSec fun c => { c with attestWait := false }).attestNow else s

/-! ## OPEN, LIFECYCLE and the other token operations -/

/-- OPEN: the token, NOTRACE, and the DEBUG wake (R711 steps 1 and 2); the rest follows when the tiles have ended. -/
def State.openOp (s : State) (p : Path) : State :=
  let notrace : Bool := (s.policyNow.getD 0).getLsbD 1
  s.tokenOp p 0x03 [1, 2] (fun t => if t.purpose = 1 && notrace then [arPolicy] else []) fun t s =>
    (s.modSec fun c => { c with opening := some (BitVec.ofNat 2 t.signer, BitVec.ofNat 8 t.purpose, pathCode p) }).wake wkDebug

/-- The lifecycle code a purpose leads to. -/
def lcTarget (purpose : Nat) : Nat := if purpose = 3 then 3 else if purpose = 4 then 5 else if purpose = 5 then 9 else 15

/-- The second token of a RETURN from FIELD (R692, R693, R706). -/
def State.consentFails (s : State) (t : Token) : List Nat :=
  if s.sec.lc = 0x5 ∧ t.purpose = 5 then
    let c := s.token 16384
    s.tokenFails c [6] ++ if c.arg = 5 then [] else [arState]
  else []

/-- Steps 1 to 6 of R708. The flush of step 5 stores OPSECS and PCYCLES again (R734, log 27). -/
def State.transition (s : State) (t : Token) : State :=
  let lcNew := lcTarget t.purpose
  let old := s.sec.lc.toNat
  let s := s.closeSession 4
  let s := { s.zeroEngines.zeroGranary.zeroWatch with dram := [] }
  let s := s.modSec fun c => { c with secbuf := [], regions := [], dsWritten := c.dsWritten || lcNew == 3 }
  let s := if lcNew = 5 then
      s.modSec fun c => { c with okh := some (Config.sha256 (t.payload.take 48)), ownerKey := some (t.payload.take 48) }
    else if 9 ≤ lcNew then
      let s := s.modSec fun c => { c with ownerKey := none, policy := none, cak := none, user := [] }
      if lcNew = 15 then s.modSec fun c => { c with slotA := { factory := false }, slotB := { factory := false } } else s
    else s
  let s := s.modSec fun c => { c with lc := BitVec.ofNat 4 lcNew, storedOpsecs := s.dev.opsecs, storedPcycles := s.dev.pcycles }
  let s := (s.record 0x0002 old lcNew 0 0).flush
  (State.programAll (s.book.buf.length + 1) s).resetBoot

/-- LIFECYCLE (R706-R708). -/
def State.lifecycleOp (s : State) (p : Path) : State :=
  s.tokenOp p 0x05 [3, 4, 5, 7] (fun t => s.consentFails t ++
    (if s.dev.run || s.usedEntries ≠ 0 || s.anyWindow then [arBusy] else []) ++
    (if s.dev.pstate == psActive || s.dev.pstate == psIdle then [] else [arPower]) ++ (if s.nvBlocked then [arInhibit] else []))
    fun t s => s.transition t

/-- ROLLFWD (R684): F rises to the booted SVN, which ARG names. -/
def State.rollfwdOp (s : State) (p : Path) : State :=
  s.tokenOp p 0x08 [8] (fun t => (if s.dev.bootSvn.toNat < t.arg then [arRollback] else if t.arg < s.dev.bootSvn.toNat then [arFormat] else []) ++
    (if s.nvBlocked then [arInhibit] else [])) fun t s =>
    let old := s.sec.svf
    ((s.modSec fun c => { c with svf := max c.svf t.arg }).record 0x0006 old (max old t.arg) 0 0).authEnd arOk

/-- SETCAK (R693): the CAK is stored wrapped. -/
def State.setcakOp (s : State) (p : Path) : State :=
  let len (t : Token) : Nat := fld t.payload 48 1
  s.tokenOp p 0x09 [9] (fun t => (if len t = 0 ∨ 16 < len t then [arFormat] else []) ++ (if s.nvBlocked then [arInhibit] else [])) fun t s =>
    let kwrap := Config.hmacSha256 Config.ds [0x43, 0x47, 0x2D, 0x43, 0x41, 0x4B, 1]
    ((s.modSec fun c => { c with cak := some (Config.aesWrap kwrap (t.payload.take 32), (t.payload.drop 32).take (len t)) }).storeProgrammed.record
      0x0007 (len t) 0 0 0).authEnd arOk

/-- POLICY (R698); reserved bits of the record must be zero. -/
def State.policyOp (s : State) (p : Path) : State :=
  s.tokenOp p 0x0A [10] (fun t => (if 4 ≤ fld t.payload 0 8 then [arFormat] else []) ++ (if s.nvBlocked then [arInhibit] else [])) fun t s =>
    ((s.modSec fun c => { c with policy := some (BitVec.ofNat 64 (fld t.payload 0 8)) }).storeProgrammed.record 0x0008 (fld t.payload 0 4) 0 0 0).authEnd arOk

/-- BOOKCLR (R691). -/
def State.bookclrOp (s : State) (p : Path) : State :=
  s.tokenOp p 0x0B [11] (fun _ => []) fun _ s => (s.modSec fun c => { c with clrauth := true }).authEnd arOk

/-- CLOSE (R712). -/
def State.closeOp (s : State) : State := if s.sec.debug = 0 then s.authEnd arState else (s.closeSession 0).authEnd arOk

/-! ## VERIFY, RELEASE, UPDATE, STORE -/

/-- VERIFY (R699, R700). -/
def State.verifyOp (s : State) : State :=
  let a := leNat (s.secBytes 0 6)
  let h := s.bytes a 64
  let len := fld h 8 4
  if s.sec.lc ≠ 0x5 then s.authEnd arState
  else if !s.dramUp then s.authEnd arPower
  else if a % 4096 ≠ 0 ∨ !inDram a (4096 + len + 16224) ∨ fld h 0 1 ≠ 1 ∨ fld h 1 7 ≠ 0 ∨ fld h 12 52 ≠ 0 then s.authEnd arFormat
  else
    match (List.range 16).find? fun i => (Tab.get none s.sec.regions i).isNone with
    | none => s.authEnd arFull
    | some i =>
      let good : Bool := match s.ownerKeyNow with
        | some k => Config.slhVerify k (h ++ s.bytes (a + 4096) len) (s.bytes (a + 4096 + len) 16224)
        | none => false
      let s := s.readBy clsControl a (4096 + len + 16224)
      if good then
        ((s.modSec fun c => { c with regions := Tab.set none c.regions i (some (BitVec.ofNat 48 (a + 4096), BitVec.ofNat 32 len)) }).putSec 0
          [BitVec.ofNat 8 i]).authEnd arOk
      else s.authEnd arBadsig

/-- RELEASE (R703). -/
def State.releaseOp (s : State) : State :=
  let i := leNat (s.secBytes 0 1)
  if 16 ≤ i then s.authEnd arFormat else (s.modSec fun c => { c with regions := Tab.set none c.regions i none }).authEnd arOk

/-- The RESULT for a result of R680. A body whose hash differs is given as BADSIG (log 28). -/
def imageCode (r : Nat) : Nat := if r = 0 then arOk else if r = 1 then arFormat else if r = 3 then arRollback else arBadsig

/-- UPDATE: the image in DRAM is checked, then the slot that did not boot is written and its cached lines dropped (R373, R685). -/
def State.updateOp (s : State) : State :=
  let a := leNat (s.secBytes 0 6)
  let slot := Config.updateSlot (s.secBytes 0 64) % 2
  let f (x : Nat) : Byte := if inDram (a + x) 1 then s.byte (a + x) else 0
  let stop (r : Nat) : State := (s.record 0x0009 slot (imgSvn f) r 0).authEnd r
  if slot = s.dev.bootSlot.toNat then stop arState
  else if !s.dramUp then stop arPower
  else if s.nvBlocked then stop arInhibit
  else if !inDram a 0x4000 || !inDram a (0x4000 + leNat (imgBytes f 4 4)) then stop arFormat
  else
    let r := imageResult f s.sec.svf
    if r ≠ 0 then stop (imageCode r)
    else
      let b : BootSlot := { factory := false, bytes := Mem.setBytes 0xFF [] 0 (imgBytes f 0 (0x4000 + leNat (imgBytes f 4 4))) }
      let s := (s.readBy clsControl a (0x4000 + leNat (imgBytes f 4 4))).modSec fun c => if slot = 0 then { c with slotA := b } else { c with slotB := b }
      let s := s.dropLines (flashBase + slot * 0x10000000) 0x4000000
      (s.record 0x0009 slot (imgSvn f) arOk 0).authEnd arOk

/-- UPDATE in recovery: the image at DRAM address 0 is checked and run (R683). -/
def State.romUpdate (s : State) : State :=
  let r := imageResult s.byte s.sec.svf
  if r = 0 then (s.stage1 2 s.byte).authEnd arOk else s.authEnd (imageCode r)

/-- A flash range lies in one user area (R678). -/
def inUser (x n : Nat) : Bool :=
  (decide (0x4180000 ≤ x) && decide (x + n ≤ 0x10000000)) || (decide (0x14100000 ≤ x) && decide (x + n ≤ 0x20000000))

/-- STORE (R689); the offset is a flash offset of R678 (log 29). -/
def State.storeOp (s : State) : State :=
  let a := leNat (s.secBytes 0 6)
  let x := leNat (s.secBytes 8 4)
  let n := leNat (s.secBytes 12 4)
  if !(s.sec.lc = 0x3 || s.sec.lc = 0x5 || s.sec.lc = 0x9) then s.authEnd arState
  else if !s.dramUp then s.authEnd arPower
  else if s.nvBlocked then s.authEnd arInhibit
  else if !inDram a n || !inUser x n then s.authEnd arFormat
  else (((s.readBy clsControl a n).modSec fun c => { c with user := Mem.setBytes 0xFF c.user x (s.bytes a n) }).dropLines (flashBase + x) n).authEnd arOk

/-! ## `AUTHCTL.OP` (R688, R689) -/

/-- A path may start an operation: the management bus, the partner of a HOST port, the TAP. -/
def State.mayAuth (s : State) (p : Path) : Bool :=
  match p with
  | .bus => true
  | .tap => true
  | .onchip => false
  | .port n => (s.port n.val).role == 0

/-- A write of an operation code. -/
def State.authOp (s : State) (p : Path) (op : Nat) : State :=
  if !s.mayAuth p || s.sec.busy || op = 0 || s.sec.lc = 0xF || s.dev.pstate == psOff then s
  else
    let s := s.modSec fun c => { c with busy := true, lastop := BitVec.ofNat 8 op }
    if !s.dev.bootok then (if s.sec.recoveryMode && op = 0x0C then s.romUpdate else s.authEnd arState)
    else if op = 0x01 then s.challenge
    else if op = 0x02 then s.attestNow
    else if op = 0x03 then s.openOp p
    else if op = 0x04 then s.closeOp
    else if op = 0x05 then s.lifecycleOp p
    else if op = 0x06 then s.verifyOp
    else if op = 0x07 then s.releaseOp
    else if op = 0x08 then s.rollfwdOp p
    else if op = 0x09 then s.setcakOp p
    else if op = 0x0A then s.policyOp p
    else if op = 0x0B then s.bookclrOp p
    else if op = 0x0C then s.updateOp
    else if op = 0x0D then s.storeOp
    else s.authEnd arFormat

/-- CHALLENGE. -/
def execChallenge (p : Path) (s : State) : Host.Outcome State Fault Refusal := done (s.authOp p 0x01)
/-- ATTEST. -/
def execAttest (p : Path) (s : State) : Host.Outcome State Fault Refusal := done (s.authOp p 0x02)
/-- OPEN. -/
def execOpenDebug (p : Path) (s : State) : Host.Outcome State Fault Refusal := done (s.authOp p 0x03)
/-- CLOSE. -/
def execCloseDebug (p : Path) (s : State) : Host.Outcome State Fault Refusal := done (s.authOp p 0x04)
/-- LIFECYCLE. -/
def execLifecycle (p : Path) (s : State) : Host.Outcome State Fault Refusal := done (s.authOp p 0x05)
/-- VERIFY. -/
def execVerify (p : Path) (s : State) : Host.Outcome State Fault Refusal := done (s.authOp p 0x06)
/-- RELEASE. -/
def execRelease (p : Path) (s : State) : Host.Outcome State Fault Refusal := done (s.authOp p 0x07)
/-- ROLLFWD. -/
def execRollfwd (p : Path) (s : State) : Host.Outcome State Fault Refusal := done (s.authOp p 0x08)
/-- SETCAK. -/
def execSetcak (p : Path) (s : State) : Host.Outcome State Fault Refusal := done (s.authOp p 0x09)
/-- POLICY. -/
def execPolicy (p : Path) (s : State) : Host.Outcome State Fault Refusal := done (s.authOp p 0x0A)
/-- BOOKCLR. -/
def execBookclr (p : Path) (s : State) : Host.Outcome State Fault Refusal := done (s.authOp p 0x0B)
/-- UPDATE. -/
def execUpdate (p : Path) (s : State) : Host.Outcome State Fault Refusal := done (s.authOp p 0x0C)
/-- STORE. -/
def execStore (p : Path) (s : State) : Host.Outcome State Fault Refusal := done (s.authOp p 0x0D)

/-- CLRAUTH_EXPIRY: 1 s has passed (R691). -/
def execClrauthExpiry (s : State) : Host.Outcome State Fault Refusal := done (s.modSec fun c => { c with clrauth := false })

/-- OPSECS_SAVE: OPSECS as it now stands, and PCYCLES, go to the security store (R734); not while the inhibit is set (R643). -/
def execOpsecsSave (opsecs : Word) (s : State) : Host.Outcome State Fault Refusal :=
  let s := s.modDev fun d => { d with opsecs := opsecs }
  done (if s.power.inhibit then s
    else (s.modSec fun c => { c with storedOpsecs := opsecs, storedPcycles := s.dev.pcycles }).storeProgrammed)

end Sys2Proof.Machine
end

