-- ==== Sys2Proof/Machine/Regs.lean ====
section
/-! DEFINITION. The register file: reads and writes of every word, from every path (R14, R15, R719-R754), and the rows that write or read
one word. -/

namespace Sys2Proof.Machine

/-- A word built from fields at their lowest bits. -/
def pack (l : List (Nat × Nat)) : Word := BitVec.ofNat 32 (l.foldl (fun a f => a + f.2 * 2 ^ f.1) 0)

/-- A flag as a field. -/
def b2n (b : Bool) : Nat := if b then 1 else 0

/-! ## Reads -/

/-- `QCFG` and `QSTAT` (R737). -/
def qcfgWord (x : Queue) : Word :=
  pack [(0, x.lsize.toNat), (4, x.prio.toNat), (6, b2n x.safe), (7, b2n x.en), (8, x.stream.toNat), (12, b2n x.sbind), (14, x.quota.toNat)]
def State.qstatWord (s : State) (q : Nat) : Word :=
  let x := s.queue q
  pack [(0, x.reason.toNat), (8, b2n x.held), (9, b2n x.stopped), (10, b2n x.ovf), (11, b2n (s.drain q)), (12, s.depth q)]

/-- The engines are powered (R621, R724). -/
def State.enginesOn (s : State) : Bool := s.dev.pstate == psActive || s.dev.pstate == psIdle || s.dev.pstate == psEntering

/-- `ENGSTAT` in the view of `ENGCTL.VIEW` (R744). -/
def State.engstatWord (s : State) : Word :=
  if !s.enginesOn then 0
  else pack ((List.range 24).map fun n =>
    let e := s.eng n
    (n, b2n (if s.dev.view = 0 then e.fenced else if s.dev.view = 1 then e.retired else if s.dev.view = 2 then e.claims.isEmpty else e.winoOff)))

/-- The engine clock in units of 100 MHz (R617, R650). -/
def State.clockInForce (s : State) : Nat := min (min 26 (if s.power.derate then 22 else 26)) (min s.power.thermCeil s.power.powerCeil)

/-- The ceilings that set it, by their LIMSRC codes. -/
def State.limiters (s : State) : List Nat :=
  if s.clockInForce = 26 then [0]
  else (if s.power.derate && s.clockInForce == 22 then [1] else []) ++ (if s.power.thermCeil = s.clockInForce then [2] else []) ++
    if s.power.powerCeil = s.clockInForce then [3] else []

/-- `PWRCAP` (R744). Where two ceilings are equal, which of them LIMSRC names is open (log 1). -/
def State.pwrcapWord (s : State) : Word :=
  pack [(0, s.clockInForce), (5, (s.limiters[s.free % max 1 s.limiters.length]?).getD 0), (8, b2n (decide (s.power.floorGroups ≠ 0))), (16, s.power.est.toNat)]

/-- `LNKSTAT` (R733). -/
def State.lnkstatWord (s : State) : Word :=
  if !s.netUp then pack ((List.range 8).map fun n => (4 * n + 3, b2n (s.port n).asleep))
  else pack ((List.range 8).map fun n => let p := s.port n; (4 * n, p.rate.toNat + 4 * b2n p.secured + 8 * b2n p.asleep))

/-- A configuration that is refused: a forced rate that is not exactly one, or SPI fields out of their ranges (R497, R655, R747). -/
def cfgRefused (n v : Nat) : Bool :=
  bitOf v 0 && (if n < 8 then !bitOf v 3 && !(let r := bitsOf v 6 4; r == 1 || r == 2 || r == 4)
    else if n < 12 then false
    else
      let sclk := bitsOf v 7 3
      let per := bitsOf v 27 21 * 2 ^ bitsOf v 31 28
      sclk == 0 || decide (25 < sclk) || bitsOf v 12 8 == 0 || per == 0 || decide (100000 < per))

/-- Input `n` captures: it is enabled and its configuration is one that is not refused (R747). -/
def State.capturing (s : State) (n : Nat) : Bool := (s.port n).en && !cfgRefused n (s.port n).cfg.toNat

/-- `PORTSTAT` of a selection (R747). What it reports of a PHY that is off reads 0 (R724). -/
def State.portstatWord (s : State) (n : Nat) : Word :=
  let p := s.port n
  if n < 8 ∧ s.netUp = false then pack [(24, b2n p.cfgerr), (25, b2n p.downf)]
  else if n < 8 then
    pack [(0, p.rate.toNat), (5, b2n p.partner.isSome), (6, (p.partner.getD 0).toNat), (16, p.oam.toNat), (24, b2n p.cfgerr), (25, b2n p.downf)]
  else if n < 14 then pack [(0, b2n (s.capturing n && s.dev.pstate != psOff)), (1, b2n (decide (n < 12) && p.sync)), (24, b2n p.cfgerr)]
  else 0

/-- `WATCHSTAT` (R750). -/
def State.watchstatWord (s : State) : Word :=
  let k := if s.watch.shalf then 4 else 0
  pack ([(0, s.watch.trig.toNat), (8, s.psblk), (11, b2n (s.power.wen && s.watch.active)), (12, b2n s.watch.shalf)] ++
    (List.range 4).map fun i => (16 + 4 * i, (Tab.get 0 s.watch.scores (k + i)).toNat))

/-- `PBCTL` (R745); BUSY also reads 1 during an erase (R611). -/
def State.pbctlWord (s : State) : Word :=
  let b := s.book
  pack [(0, b2n b.flushReq), (1, b2n b.erasing), (2, b2n b.ainc), (3, b2n b.full), (4, b2n (b.flushing || b.erasing)), (5, b.buf.length), (13, b.regn)]

/-- The value of a word whose read has no side effect. -/
def State.wordValue (s : State) (p : Path) (w : Nat) : Word :=
  let c := s.ctx p
  let d := s.dev
  let q := s.queue c.qsel.toNat
  match w with
  | 0x00 => 0x16C244B5
  | 0x01 => revidWord
  | 0x02 => capsWord
  | 0x03 => pack [(0, s.sec.lc.toNat), (4, BitVec.toNat s.sec.debug)]
  | 0x04 => pack [(0, b2n d.run), (1, d.psreq.toNat), (3, d.profile.toNat), (5, b2n d.service), (6, b2n d.wrst)]
  | 0x05 => pack [(0, d.pstate.toNat), (3, b2n s.ready), (4, b2n d.bootok), (5, b2n s.degraded), (6, b2n d.halted), (8, fstateCode s.bell.fstate)]
  | 0x06 => d.irqstat.setWidth 32
  | 0x07 => d.irqen.setWidth 32
  | 0x08 => pack [(0, d.bootSlot.toNat), (8, d.bootSvn.toNat), (16, d.resA.toNat), (20, d.resB.toNat), (24, s.sec.svf)]
  | 0x09 => d.epoch
  | 0x0A => c.qsel.setWidth 32
  | 0x0B => BitVec.ofNat 32 q.base.toNat
  | 0x0C => BitVec.ofNat 32 (q.base.toNat / 2 ^ 32)
  | 0x0D => qcfgWord q
  | 0x0E => q.head.setWidth 32
  | 0x0F => q.tail.setWidth 32
  | 0x10 => BitVec.ofNat 32 q.cbase.toNat
  | 0x11 => BitVec.ofNat 32 (q.cbase.toNat / 2 ^ 32)
  | 0x12 => q.chead.setWidth 32
  | 0x13 => q.ctail.setWidth 32
  | 0x14 => s.qstatWord c.qsel.toNat
  | 0x15 => pack [(0, s.usedEntries), (15, b2n d.rdone), (16, d.lost.toNat)]
  | 0x16 => s.engstatWord
  | 0x17 => pack [(0, d.dis.toNat), (24, d.view.toNat), (26, d.reng.toNat), (31, b2n s.readmitting)]
  | 0x18 => s.pwrcapWord
  | 0x19 => pack [(0, ofSigned 8 s.power.tj), (8, b2n s.throttling), (9, b2n s.power.derate), (16, ofSigned 8 s.power.tjmax)]
  | 0x1A => s.bell.fltsum.setWidth 32
  | 0x1B => pack [(0, s.bell.profile.toNat), (2, b2n s.bell.alertc), (3, b2n s.bell.autoexit), (4, s.bell.quiet.toNat),
      (8, b2n (s.bell.exit.any fun x => !x.auto))]
  | 0x1C => pack [(0, s.bell.count.toNat), (8, s.bell.limit.toNat)]
  | 0x1D => s.readFltinj
  | 0x1E => c.pbcur.setWidth 32
  | 0x1F => s.pbctlWord
  | 0x28 => s.lnkstatWord
  | 0x29 => c.portsel.setWidth 32
  | 0x2A => if c.portsel.toNat < 14 then (s.port c.portsel.toNat).cfg else 0
  | 0x2B => s.portstatWord c.portsel.toNat
  | 0x2C => d.sktype.setWidth 32
  | 0x2D => pack [(0, d.id.toNat), (8, d.sys.toNat)]
  | 0x2F => c.tlatch
  | 0x30 => d.opsecs
  | 0x31 => d.pcycles
  | 0x32 => pack [(0, b2n s.power.wen), (1, s.power.wclk.toNat), (3, s.power.lport.toNat), (6, s.power.wakeen.toNat), (11, b2n s.power.wout),
      (12, s.power.wtimer.toNat)]
  | 0x33 => s.watchstatWord
  | 0x34 => s.power.wakesrc.setWidth 32
  | 0x35 => pack [(0, b2n s.power.pfail), (1, b2n s.power.belowPF), (2, b2n s.power.inhibit), (3, b2n s.book.flushing), (4, b2n s.book.cut),
      (5, b2n s.power.lastbo)]
  | 0x36 => s.readTblsel p
  | 0x37 => c.tbladdr
  | 0x3A => pack [(0, b2n s.sec.busy), (4, s.sec.result.toNat), (8, b2n s.sec.clrauth), (16, s.sec.lastop.toNat)]
  | 0x3B => d.scratch
  | w => if 0x20 ≤ w ∧ w ≤ 0x27 then Tab.get 0 c.pbwin (w - 0x20) else 0

/-- A read of `TIME_LO` (R723). -/
def State.readTime (s : State) (p : Path) : Word × State :=
  let t := s.now
  (BitVec.ofNat 32 t, s.tick.modCtx p fun c => { c with tlatch := BitVec.ofNat 32 (t / 2 ^ 32) })

/-- A read of a word, with its side effects (R610, R723, R755). -/
def State.readWord (s : State) (p : Path) (w : Nat) : Word × State :=
  if w = 0x2E then s.readTime p
  else if w = 0x38 then s.readTbldata p
  else if w = 0x18 then (s.pwrcapWord, if s.limiters.length ≤ 1 then s else s.used)
  else if w = 0x27 ∧ s.book.ainc then (s.wordValue p w, s.loadPbwin p ((s.ctx p).pbcur.toNat + 1))
  else (s.wordValue p w, s)

/-- A path reads words now (R719): not in OFF; through a port from BOOTOK with a host partner's role; through the TAP under REGRD. -/
def State.canRead (s : State) (p : Path) : Bool :=
  s.dev.pstate != psOff && (match p with
    | .bus => true
    | .onchip => true
    | .tap => s.sec.debug != 0
    | .port n => s.netUp && ((s.port n.val).role == 0 || (s.port n.val).role == 3))

/-! ## Writes -/

/-- A path writes a word now (R719, R725): the TAP only `AUTHCTL`; nothing in VOID. -/
def State.canWrite (s : State) (p : Path) (w : Nat) : Bool :=
  s.dev.pstate != psOff && s.sec.lc != 0xF && (match p with
    | .bus => true
    | .onchip => true
    | .tap => w == 0x39
    | .port n => s.netUp && ((s.port n.val).role == 0 || (s.port n.val).role == 3))

/-- `DEVCTL.RUN` (R532 step 2, R55). -/
def State.writeRun (s : State) (on : Bool) : State :=
  let was := s.dev.run
  let s := s.modDev fun d => { d with run := on }
  if was == on then s else s.retryAll

/-- `DEVCTL.PSREQ` (R622, R55). -/
def State.writePsreq (s : State) (v : BitVec 2) : State := (s.takeRequest v).retryAll

/-- `DEVCTL.SERVICE` (R709). -/
def State.writeService (s : State) (on : Bool) : State :=
  if s.sec.lc = 0x3 ∨ s.sec.lc = 0x9 then s.modDev fun d => { d with service := on } else s

/-- `DEVCTL.WRST` (R735): the Steward is asked for a warm reset, which it makes from `DEVSTAT.BOOTOK` on. -/
def State.writeWrst (s : State) : State :=
  (s.modDev fun d => { d with wrst := true }).modPower fun p => { p with wrstReq := some (p.wrstReq.getD 1) }

/-- `DEVCTL`. -/
def State.writeDevctl (s : State) (n : Nat) : State :=
  let s := s.modDev fun d => { d with profile := BitVec.ofNat 2 (bitsOf n 4 3) }
  let s := (s.writeService (bitOf n 5)).writeRun (bitOf n 0)
  let s := s.writePsreq (BitVec.ofNat 2 (bitsOf n 2 1))
  if bitOf n 6 then s.writeWrst else s

/-- `IRQEN`: enabling a bit that is set calls for a notice (R736). -/
def State.writeIrqen (s : State) (v : Word) : State :=
  let e : BitVec 11 := v.setWidth 11
  let rise := e &&& ~~~ s.dev.irqen &&& s.dev.irqstat
  s.modDev fun d => { d with irqen := e, irqDue := d.irqDue || decide (rise ≠ 0) }

/-- `PBCTL.FLUSH` (R605). -/
def State.writeFlush (s : State) : State :=
  let s := s.flush
  s.modBook fun b => { b with flushReq := b.flushing }

/-- `PBCTL.CLEAR` (R611, R691). -/
def State.writeClear (s : State) : State :=
  let auth := s.sec.clrauth
  let s := s.modSec fun c => { c with clrauth := false }
  if auth && !s.power.inhibit then s.startClear else s.record 0x000A (if auth then 1 else 0) 0 0 0

/-- Bits of `PORTCFG` that a selection defines (R747). -/
def portMask (n : Nat) : Nat := if n < 8 then 0x07FFF7FF else if n < 12 then 0xFF03 else 0xFFFFFFFF

/-- `PORTCFG` of a selection (R503, R747). -/
def State.writePortcfg (s : State) (n : Nat) (v : Word) : State :=
  if 14 ≤ n then s
  else
    let p := s.port n
    let w := v.toNat &&& portMask n
    let w := if n < 8 ∧ p.en then w - bitsOf w 2 1 * 2 + p.role * 2 else w
    let s := s.setPort n { p with cfg := BitVec.ofNat 32 w, cfgerr := p.cfgerr || cfgRefused n w, sync := p.sync && bitOf w 0 }
    if n < 8 ∧ p.en ∧ !bitOf w 0 then s.linkRelease n else s

/-- `SKTYPE` (R748). -/
def State.writeSktype (s : State) (v : Half) : State :=
  if v.toNat < 0x600 ∨ v = 0x22F0 ∨ v = 0x888E ∨ v = 0x88F7 then s else s.modDev fun d => { d with sktype := v }

/-- `DEVADDR.SYS` (R749). -/
def State.writeSys (s : State) (v : Byte) : State :=
  if s.peers.any fun p => p.2.established then s else s.modDev fun d => { d with sys := v }

/-- `WATCHCTL` (R750). -/
def State.writeWatchctl (s : State) (n : Nat) : State :=
  s.modPower fun p => { p with
    wen := bitOf n 0, wclk := BitVec.ofNat 2 (bitsOf n 2 1), lport := BitVec.ofNat 3 (bitsOf n 5 3), wakeen := BitVec.ofNat 5 (bitsOf n 10 6)
    wout := bitOf n 11, wtimer := BitVec.ofNat 20 (bitsOf n 31 12) }

/-- `FLTCTL` (R567, R581, R585). -/
def State.writeFltctl (s : State) (n : Nat) : State :=
  let s := s.modBell fun b => { b with
    profile := BitVec.ofNat 2 (bitsOf n 1 0), alertc := bitOf n 2, autoexit := bitOf n 3, quiet := BitVec.ofNat 4 (min 13 (bitsOf n 7 4)) }
  if bitOf n 8 then s.exitRequest else s

/-- `ENGCTL.DIS` (R262): an engine that is enabled again claims. -/
def State.writeDis (s : State) (mask : BitVec 24) : State :=
  let was := s.dev.dis
  let s := s.modDev fun d => { d with dis := mask }
  if was &&& ~~~ mask = 0 then s else s.wakeEngines

/-- `ENGCTL` (R586, R744). -/
def State.writeEngctl (s : State) (n : Nat) : State :=
  let s := (s.modDev fun d => { d with view := BitVec.ofNat 2 (bitsOf n 25 24), reng := BitVec.ofNat 5 (bitsOf n 30 26) }).writeDis
    (BitVec.ofNat 24 (bitsOf n 23 0))
  if bitOf n 31 then s.readmit s.dev.reng.toNat else s

/-- A whole write of a word under its access codes (R15, R733). -/
def State.writeWord (s : State) (p : Path) (w : Nat) (v : Word) : State :=
  let n := v.toNat
  let q := (s.ctx p).qsel.toNat
  match w with
  | 0x04 => s.writeDevctl n
  | 0x06 => s.modDev fun d => { d with irqstat := d.irqstat &&& ~~~ (v.setWidth 11) }
  | 0x07 => s.writeIrqen v
  | 0x0A => s.modCtx p fun c => { c with qsel := v.setWidth 5 }
  | 0x0B => s.writeBase q fun x => { x with base := BitVec.ofNat 48 (x.base.toNat / 2 ^ 32 * 2 ^ 32 + n / 64 * 64) }
  | 0x0C => s.writeBase q fun x => { x with base := BitVec.ofNat 48 (x.base.toNat % 2 ^ 32 + n % 65536 * 2 ^ 32) }
  | 0x0D => s.writeQcfg q v
  | 0x0F => s.writeQtail q (v.setWidth 16)
  | 0x10 => s.writeBase q fun x => { x with cbase := BitVec.ofNat 48 (x.cbase.toNat / 2 ^ 32 * 2 ^ 32 + n / 64 * 64) }
  | 0x11 => s.writeBase q fun x => { x with cbase := BitVec.ofNat 48 (x.cbase.toNat % 2 ^ 32 + n % 65536 * 2 ^ 32) }
  | 0x12 => s.writeQchead q (v.setWidth 16)
  | 0x17 => s.writeEngctl n
  | 0x1A => s.clearFlt (v.setWidth 8)
  | 0x1B => s.writeFltctl n
  | 0x1C => s.modBell fun b => { b with
      count := if bitsOf n 3 0 = 0 then 0 else b.count, limit := BitVec.ofNat 4 (max 1 (bitsOf n 11 8)) }
  | 0x1D => s.writeFltinj v
  | 0x1E => s.loadPbwin p (bitsOf n 14 0)
  | 0x1F =>
    let s := s.modBook fun b => { b with ainc := bitOf n 2 }
    let s := if bitOf n 0 then s.writeFlush else s
    if bitOf n 1 then s.writeClear else s
  | 0x29 => s.modCtx p fun c => { c with portsel := v.setWidth 4 }
  | 0x2A => s.writePortcfg (s.ctx p).portsel.toNat v
  | 0x2B =>
    let k := (s.ctx p).portsel.toNat
    if k < 14 ∧ bitOf n 24 then s.modPort k fun x => { x with cfgerr := false } else s
  | 0x2C => s.writeSktype (v.setWidth 16)
  | 0x2D => s.writeSys (BitVec.ofNat 8 (bitsOf n 15 8))
  | 0x32 => s.writeWatchctl n
  | 0x33 => s.modWatch fun x => { x with trig := x.trig &&& ~~~ (v.setWidth 8), shalf := bitOf n 12 }
  | 0x34 => s.modPower fun x => { x with wakesrc := x.wakesrc &&& ~~~ (v.setWidth 7) }
  | 0x35 => if bitOf n 4 ∧ s.book.cut then (s.modBook fun b => { b with cut := false }).setIrq irqPf else s
  | 0x36 => s.writeTblsel p v
  | 0x37 => s.modCtx p fun c => { c with tbladdr := v }
  | 0x38 => s.writeTbldata p v
  | 0x39 => s.authOp p (bitsOf n 7 0)
  | 0x3B => s.modDev fun d => { d with scratch := v }
  | _ => s

/-! ## Split words (R728-R732) -/

/-- The word a write access gives: a bus write of a low half takes its high half from the holding register (R732). -/
def State.wrAcc (s : State) (w : Nat) (a : WrAcc) : Path × Word × State :=
  match a with
  | .word p v => (p, v, s)
  | .busLow lo =>
    let hi : Half := match (s.ctx .bus).hold with
      | some (t, h) => if t.toNat = w then h else 0
      | none => 0
    (.bus, hi ++ lo, s.modCtx .bus fun c => { c with hold := none })

/-- A write access of a word. -/
def State.access (s : State) (w : Nat) (a : WrAcc) : State :=
  let (p, v, t) := s.wrAcc w a
  if s.canWrite p w then t.writeWord p w v else s

/-- A read of a word through a path, its value kept as what the path's last read returned (log 4). -/
def State.readVia (s : State) (p : Path) (w : Nat) : State :=
  if s.canRead p then
    let r := s.readWord p w
    r.2.modCtx p fun c => { c with rdata := r.1 }
  else s

/-- MB_WRITE_HIGH_HALF: the half-word waits in the holding register (R731). An address with reserved bits set is ignored (R728). -/
def execMbWriteHighHalf (addr hi : Half) (s : State) : Host.Outcome State Fault Refusal :=
  done (if addr.toNat < 128 ∧ addr.toNat % 2 = 1 ∧ s.canWrite .bus (addr.toNat / 2) then
    s.modCtx .bus fun c => { c with hold := some (BitVec.ofNat 6 (addr.toNat / 2), hi) } else s)

/-- Bits [31:16] that a bus read of a high half returns (R730): those of the snapshot, where its tag names the word, else the current
ones. -/
def State.highHalf (s : State) (w : Nat) : Nat :=
  match (s.ctx .bus).snap with
  | some (t, v) => if t.toNat = w then v.toNat / 65536 else (s.readWord .bus w).1.toNat / 65536
  | none => (s.readWord .bus w).1.toNat / 65536

/-- MB_READ_LOW_HALF: the word is read with its side effects and kept in the snapshot register (R729). An address with reserved bits
set reads 0x0000 (R728), and one of a high half reads that half with no side effect (R730). -/
def execMbReadLowHalf (addr : Half) (s : State) : Host.Outcome State Fault Refusal :=
  let w := addr.toNat / 2
  if !s.canRead .bus then done s
  else if 128 ≤ addr.toNat then done (s.modCtx .bus fun c => { c with rdata := 0 })
  else if addr.toNat % 2 = 1 then done (s.modCtx .bus fun c => { c with rdata := BitVec.ofNat 32 (s.highHalf w) })
  else
    let r := s.readWord .bus w
    done (r.2.modCtx .bus fun c => { c with snap := some (BitVec.ofNat 6 w, r.1), rdata := BitVec.ofNat 32 (r.1.toNat % 65536) })

/-! ## The rows -/

/-- REGISTER_WRITE. -/
def execRegisterWrite (w : BitVec 6) (a : WrAcc) (s : State) : Host.Outcome State Fault Refusal := done (s.access w.toNat a)
/-- QTAIL_WRITE. -/
def execQtailWrite (a : WrAcc) (s : State) : Host.Outcome State Fault Refusal := done (s.access 0x0F a)
/-- QCHEAD_WRITE. -/
def execQcheadWrite (a : WrAcc) (s : State) : Host.Outcome State Fault Refusal := done (s.access 0x12 a)
/-- QCFG_WRITE. -/
def execQcfgWrite (a : WrAcc) (s : State) : Host.Outcome State Fault Refusal := done (s.access 0x0D a)
/-- FLTINJ_WRITE. -/
def execFltinjWrite (a : WrAcc) (s : State) : Host.Outcome State Fault Refusal := done (s.access 0x1D a)
/-- FLTSUM_WRITE. -/
def execFltsumWrite (a : WrAcc) (s : State) : Host.Outcome State Fault Refusal := done (s.access 0x1A a)
/-- PBCUR_WRITE. -/
def execPbcurWrite (a : WrAcc) (s : State) : Host.Outcome State Fault Refusal := done (s.access 0x1E a)
/-- TBLDATA_WRITE. -/
def execTbldataWrite (a : WrAcc) (s : State) : Host.Outcome State Fault Refusal := done (s.access 0x38 a)
/-- IRQEN_WRITE. -/
def execIrqenWrite (a : WrAcc) (s : State) : Host.Outcome State Fault Refusal := done (s.access 0x07 a)
/-- PORTCFG_WRITE. -/
def execPortcfgWrite (a : WrAcc) (s : State) : Host.Outcome State Fault Refusal := done (s.access 0x2A a)

/-- A write of one field of a word. -/
def State.fieldWrite (s : State) (p : Path) (w : Nat) (f : State → State) : State := if s.canWrite p w then f s else s

/-- DEVCTL_RUN. -/
def execDevctlRun (p : Path) (on : Bool) (s : State) : Host.Outcome State Fault Refusal := done (s.fieldWrite p 0x04 fun s => s.writeRun on)
/-- DEVCTL_PSREQ. -/
def execDevctlPsreq (p : Path) (v : BitVec 2) (s : State) : Host.Outcome State Fault Refusal := done (s.fieldWrite p 0x04 fun s => s.writePsreq v)
/-- DEVCTL_PROFILE (R647). -/
def execDevctlProfile (p : Path) (v : BitVec 2) (s : State) : Host.Outcome State Fault Refusal :=
  done (s.fieldWrite p 0x04 fun s => s.modDev fun d => { d with profile := v })
/-- DEVCTL_SERVICE. -/
def execDevctlService (p : Path) (on : Bool) (s : State) : Host.Outcome State Fault Refusal := done (s.fieldWrite p 0x04 fun s => s.writeService on)
/-- DEVCTL_WRST. -/
def execDevctlWrst (p : Path) (s : State) : Host.Outcome State Fault Refusal := done (s.fieldWrite p 0x04 State.writeWrst)
/-- FLTCTL_EXIT. -/
def execFltctlExit (p : Path) (s : State) : Host.Outcome State Fault Refusal := done (s.fieldWrite p 0x1B State.exitRequest)
/-- ENGCTL_READMIT. -/
def execEngctlReadmit (p : Path) (reng : BitVec 5) (s : State) : Host.Outcome State Fault Refusal :=
  done (s.fieldWrite p 0x17 fun s => (s.modDev fun d => { d with reng := reng }).readmit reng.toNat)
/-- ENGCTL_DIS: a disabled engine ends its tile and claims nothing further (R262). -/
def execEngctlDis (p : Path) (mask : BitVec 24) (s : State) : Host.Outcome State Fault Refusal :=
  done (s.fieldWrite p 0x17 fun s => s.writeDis mask)
/-- PBCTL_FLUSH. -/
def execPbctlFlush (p : Path) (s : State) : Host.Outcome State Fault Refusal := done (s.fieldWrite p 0x1F State.writeFlush)
/-- PBCTL_CLEAR. -/
def execPbctlClear (p : Path) (s : State) : Host.Outcome State Fault Refusal := done (s.fieldWrite p 0x1F State.writeClear)
/-- TBLSEL_COMMIT: SEL is taken first (R754). -/
def execTblselCommit (p : Path) (sel : Byte) (s : State) : Host.Outcome State Fault Refusal :=
  done (s.fieldWrite p 0x36 fun s => s.writeTblsel p (pack [(0, sel.toNat), (8, 1), (12, b2n (s.ctx p).ainc)]))
/-- TBLSEL_REVERT. -/
def execTblselRevert (p : Path) (sel : Byte) (s : State) : Host.Outcome State Fault Refusal :=
  done (s.fieldWrite p 0x36 fun s => s.writeTblsel p (pack [(0, sel.toNat), (9, 1), (12, b2n (s.ctx p).ainc)]))
/-- TBLDATA_READ. -/
def execTbldataRead (p : Path) (s : State) : Host.Outcome State Fault Refusal := done (s.readVia p 0x38)
/-- TIME_LO_READ. -/
def execTimeLoRead (p : Path) (s : State) : Host.Outcome State Fault Refusal := done (s.readVia p 0x2E)
/-- PBWIN7_READ. -/
def execPbwin7Read (p : Path) (s : State) : Host.Outcome State Fault Refusal := done (s.readVia p 0x27)

/-! ## The Parish Book's own steps (R606, R611) -/

/-- PB_RECORD_PROGRAMMED. -/
def execPbRecordProgrammed (s : State) : Host.Outcome State Fault Refusal := done (if s.book.flushing then s.programNext else s)
/-- PB_ERASE_DONE. -/
def execPbEraseDone (s : State) : Host.Outcome State Fault Refusal := done s.eraseEnd

end Sys2Proof.Machine
end

