-- ==== Sys2Proof/Machine/Skouk.lean ====
section
/-! DEFINITION. Received Skouk frames: the checks of R516, sequencing and re-send, joining, and what each type does (R500-R502,
R513-R535, R544-R549, R553-R558). -/

namespace Sys2Proof.Machine

/-! ## Restore time (R533, R636, R637) -/

/-- DELAY of a restore entry in force, in µs: the active table's, and at least the entry's minimum. -/
def State.restoreDelay (s : State) (e : Nat) : Nat :=
  let t := s.table 2
  let d := if t.expert then leNat (Mem.getBytes 0 t.active (4 * e) 2) else restoreDefault e
  max d (if 9 ≤ e ∧ e ≤ 14 then 10 else 0)

/-- The bring-up time of an entry's domain, in µs. -/
def restoreBringUp (watch : Bool) (e : Nat) : Nat :=
  if e = 0 then 20 else if e = 1 then (if watch then 2000 else 30) else if e = 2 then 30 else if e = 3 ∨ e = 4 then 5
  else if e = 5 then 500 else if e = 6 then 20 else if e = 7 ∨ e = 8 then 50 else if e = 15 then 0 else 25

/-- The entries an exit uses, in ascending order. -/
def restoreEntries (watch : Bool) : List Nat := (List.range 16).filter fun e => watch || (e != 0 && !(decide (5 ≤ e) && decide (e ≤ 8)))

/-- How long an exit from STANDBY lasts at most, in µs. -/
def State.restoreTotal (s : State) : Nat :=
  (restoreEntries false).foldl (fun a e => a + s.restoreDelay e + restoreBringUp false e) 0

/-! ## Acknowledgements and re-send (R517-R521) -/

/-- `a` comes before `b` as a serial number of 32 bits (R517). -/
def seqBefore (a b : Word) : Bool := decide (1 ≤ (b - a).toNat) && decide ((b - a).toNat < 2 ^ 31)

/-- Send every unacknowledged frame of the pair again, oldest first, each with its SEQ and the present ACK. -/
def State.goBack (s : State) (ep : Nat) : State :=
  forEach (s.peer ep).unacked (fun f s => (s.txSk { f with ack := (s.peer ep).exp }).bump 7 ep 1 1) s

/-- Joining with an endpoint is complete (R546): the pair is up, the port takes its partner (R502), and what waited is sent. -/
def State.joinDone (s : State) (ep : Nat) : State :=
  let p := s.peer ep
  if p.joined && p.joinAcked then
    let s := s.setPeer ep { p with down := false }
    let q := s.port p.port.toNat
    let s := if (q.role == 0 || q.role == 2) && q.partner.isNone then
        s.setPort p.port.toNat { q with partner := some (BitVec.ofNat 7 ep) } else s
    State.drainWaiting (s.peer ep).waiting.length ep s
  else s

/-- An acknowledgement value from an endpoint: frames before it are released, and their CPLs acknowledged. Only ACK frames count as
further ACKs of one value; the third makes the sender go back (R521). -/
def State.ackIn (s : State) (ep : Nat) (isAck : Bool) (a : Word) : State :=
  let p := s.peer ep
  let gone := p.unacked.filter fun f => seqBefore f.seq a
  if !gone.isEmpty then
    let s := s.setPeer ep { p with
      unacked := p.unacked.filter fun f => !seqBefore f.seq a
      lastAck := a, ackRepeats := 0, timeouts := 0, joinAcked := p.joinAcked || gone.any fun f => f.ty.toNat == tyJoin }
    let s := forEach (gone.filter fun f => f.ty.toNat == tyCpl) (fun f s => s.cplAcked f) s
    let s := if gone.any fun f => f.ty.toNat == tyJoin then s.joinDone ep else s
    State.drainWaiting (s.peer ep).waiting.length ep s
  else if a != p.lastAck then s.setPeer ep { p with lastAck := a, ackRepeats := 0 }
  else if isAck && !p.unacked.isEmpty then
    if p.ackRepeats = 2 then (s.setPeer ep { p with ackRepeats := 0 }).goBack ep
    else s.setPeer ep { p with ackRepeats := p.ackRepeats + 1 }
  else s

/-- An ACK frame to an endpoint. -/
def State.sendAck (s : State) (ep : Nat) : State := (s.modPeer ep fun p => { p with ackOwed := 0 }).sendPlain ep tyAck noParam

/-! ## Answers -/

/-- RESP to a request (R528). -/
def State.respond (s : State) (ep : Nat) (f : SkFrame) (result : Nat) (data : List Byte) : State :=
  s.sendSeq ep tyResp (putAt (putAt (putAt noParam 0 (leBytes 1 result)) 4 (leBytes 4 f.seq.toNat)) 8 [f.ty]) data

def rsOk : Nat := 0
def rsRegion : Nat := 1
def rsRange : Nat := 2
def rsAuth : Nat := 3
def rsState : Nat := 4

/-- WACK, or WNAK with a reason, to a window write (R556). -/
def State.answerWrite (s : State) (ep : Nat) (f : SkFrame) (reason : Nat) : State :=
  let b := putAt (putAt noParam 0 (f.param.take 6)) 8 (leBytes 4 f.seq.toNat)
  if reason = 0 then s.sendSeq ep tyWack b [] else s.sendSeq ep tyWnak (putAt b 12 (leBytes 1 reason)) []

def wnWindow : Nat := 1
def wnFenced : Nat := 2
def wnRange : Nat := 3

/-! ## Submission (R530-R533) -/

/-- Answer a SUBMIT, counted for its queue. `cnt` is 0 ACCEPT, 1 DEFER, 2 REFUSE. -/
def State.answerSubmit (s : State) (ep q cnt : Nat) (param : List Byte) : State :=
  let s := if q < 32 then s.bump 9 q cnt 1 else s
  s.sendSeq ep (tyAccept + cnt) param []

/-- A LINK wake (R629, R630): it acts in STANDBY, and is latched during an entry to STANDBY. -/
def State.linkWake (s : State) : State :=
  if s.dev.pstate == psStandby || s.waking || (s.dev.pstate == psEntering && s.power.entering = 2) then s.wake wkLink else s

/-- A SUBMIT that passed R516. -/
def State.submit (s : State) (ep : Nat) (f : SkFrame) : State :=
  let s := s.linkWake
  let q := fld f.param 0 1
  let tag : Quad := BitVec.ofNat 64 (fld f.param 16 8)
  let role := (s.port f.port.val).role
  let v := if !isHost ep || !(role == 0 || role == 3) || decide (31 < q) then Verdict.refuse raAuth
    else s.admission q (some (BitVec.ofNat 6 ep, true, tag))
  let depth := if q < 32 then s.depth q else 0
  let body (reason : Nat) : List Byte :=
    putAt (putAt (putAt (putAt noParam 0 (leBytes 1 q)) 1 (leBytes 1 reason)) 2 (leBytes 2 depth)) 8 (leBytes 8 tag.toNat)
  let accepted (j : Word) : List Byte := putAt (putAt (putAt noParam 0 (leBytes 1 q)) 4 (leBytes 4 j.toNat)) 8 (leBytes 8 tag.toNat)
  match v with
  | .accept =>
    let r := s.accept { queue := q, list := BitVec.ofNat 48 (fld f.param 8 6), tag := tag, org := BitVec.ofNat 6 ep, host := true
                        port := BitVec.ofNat 3 f.port.val, form := true }
    r.2.answerSubmit ep q 0 (accepted r.1)
  | .dup j => s.answerSubmit ep q 0 (accepted j)
  | .defer r =>
    let us := if r = raBusy then 20 else s.free % (s.restoreTotal + 1)
    let s := if r = raBusy then s else s.used
    s.answerSubmit ep q 1 (putAt (body r) 4 (leBytes 4 us))
  | .refuse r => s.answerSubmit ep q 2 (putAt (body r) 16 [0x20])

/-! ## Registers and memory (R525-R529) -/

/-- Read `n` words from word `w` up. -/
def State.readWords : Nat → State → Path → Nat → List Byte × State
  | 0, s, _, _ => ([], s)
  | n + 1, s, p, w =>
    let r := s.readWord p w
    let t := readWords n r.2 p (w + 1)
    (leBytes 4 r.1.toNat ++ t.1, t.2)

/-- RREG. In VOID no Skouk path reaches the registers (R725). -/
def State.regRead (s : State) (ep : Nat) (f : SkFrame) : State :=
  let w := fld f.param 0 1
  let n := fld f.param 1 1
  if s.sec.lc = 0xF then s.respond ep f rsAuth []
  else if n = 0 ∨ 16 < n ∨ 63 < w ∨ 64 < w + n then s.respond ep f rsRange []
  else
    let r := State.readWords n s (.port f.port) w
    r.2.respond ep f rsOk r.1

/-- The part has been reset within the command (R683, R708): a lifecycle transition or a recovery boot has ended its pairs. -/
def State.resetSince (s : State) (lc : BitVec 4) (ok : Bool) : Bool := s.sec.lc != lc || s.dev.bootok != ok

/-- WREG. A write that resets the part has no RESP, since every pair has ended. -/
def State.regWrite (s : State) (ep : Nat) (f : SkFrame) : State :=
  let w := fld f.param 0 1
  if s.sec.lc = 0xF then s.respond ep f rsAuth []
  else if 63 < w then s.respond ep f rsRange []
  else
    let t := s.writeWord (.port f.port) w (BitVec.ofNat 32 (fld f.param 4 4))
    if t.resetSince s.sec.lc s.dev.bootok then t else t.respond ep f rsOk []

/-- The results of R528 that come before the address: lifecycle (R715), recovery or halt, and the length (R527). -/
def State.memRefused (s : State) (lenOk : Bool) : Option Nat :=
  if !s.lcWork then some rsAuth
  else if s.power.recovering || !s.dev.rdone || s.dev.halted then some rsState
  else if !lenOk then some rsRange
  else none

/-- RMEM once DRAM is on. A read whose every re-read fails is reported (R24), and what it returns is open (log 1). -/
def State.memRead (s : State) (ep : Nat) (f : SkFrame) : State :=
  let a := fld f.param 0 6
  let n := fld f.param 8 4
  match s.memRefused (n != 0 && decide (n ≤ s.pairPsize ep)) with
  | some r => s.respond ep f r []
  | none =>
    if !inDram a n && !inFlash a n then s.respond ep f rsRegion []
    else
      let r := s.marketRead a n
      match r.1 with
      | none => r.2.respond ep f rsOk (r.2.memBytes a n)
      | some c =>
        let k := r.2.fresh
        ((r.2.used n).raise { source := 0x19, inst := c, inj := true }).respond ep f rsOk ((List.range n).map fun i => Config.freeByte (k + i))

/-- WMEM once DRAM is on: into DRAM, or into an aperture through an open window that holds the whole range (R41). -/
def State.memWrite (s : State) (ep : Nat) (f : SkFrame) : State :=
  let a := fld f.param 0 6
  let n := fld f.param 8 4
  match s.memRefused (n != 0 && n == f.payload.length) with
  | some r => s.respond ep f r []
  | none =>
    if inDram a n then
      if s.inVerified a n then s.respond ep f rsAuth [] else (s.marketWrite a f.payload).respond ep f rsOk []
    else
      match inAperture a n with
      | none => s.respond ep f rsRegion []
      | some (e, o) =>
        match (List.range 8).find? fun w => (s.window e w).admits (s.window e w).wepoch true o n with
        | some w => (s.landWindow e w o f.payload).respond ep f rsOk []
        | none => s.respond ep f rsRegion []

/-- A register or memory request. In STANDBY, and while restoring from it, memory requests wait, and so do the requests behind them
on the pair (R529, R630); requests wait too behind a SUBMIT that a halted Reeve has not answered. -/
def State.request (s : State) (ep : Nat) (f : SkFrame) : State :=
  let mem : Bool := f.ty.toNat == tyRmem || f.ty.toNat == tyWmem
  let s := if mem then s.linkWake else s
  let p := s.peer ep
  if (s.waking && mem) || ((s.waking || s.sec.reeveHalted) && !p.heldReqs.isEmpty) then s.setPeer ep { p with heldReqs := p.heldReqs ++ [f] }
  else if f.ty.toNat = tyRreg then s.regRead ep f
  else if f.ty.toNat = tyWreg then s.regWrite ep f
  else if f.ty.toNat = tyRmem then s.memRead ep f
  else s.memWrite ep f

/-- A SUBMIT waits while the Reeve is halted through the TAP (R713). -/
def State.submitOrHold (s : State) (ep : Nat) (f : SkFrame) : State :=
  if s.sec.reeveHalted then s.modPeer ep fun p => { p with heldReqs := p.heldReqs ++ [f] } else s.submit ep f

/-- Run the requests that waited, each pair's in SEQ order. Where one of them resets the part, the others are lost. -/
def State.runHeld (s0 : State) : State :=
  forEach (List.range 128) (fun ep s =>
    let l := (s.peer ep).heldReqs
    if l.isEmpty || s.resetSince s0.sec.lc s0.dev.bootok then s
    else forEach l (fun f s =>
        if s.resetSince s0.sec.lc s0.dev.bootok then s
        else if f.ty.toNat = tySubmit then s.submitOrHold ep f else s.request ep f)
      (s.modPeer ep fun p => { p with heldReqs := [] })) s0

/-! ## Window writes from other endpoints (R553-R557) -/

/-- The parameters of SEND and WWIN (R553). -/
def wpEng (f : SkFrame) : Nat := fld f.param 6 1
def wpWin (f : SkFrame) : Nat := fld f.param 7 1
def wpEpoch (f : SkFrame) : BitVec 16 := BitVec.ofNat 16 (fld f.param 8 2)
def wpOff (f : SkFrame) : Nat := fld f.param 10 4

/-- Apply a remote window write: 0 landed, or the reason of its WNAK. Remote writes carry epoch 0 and are never stale (R357). -/
def State.remoteWrite (s : State) (allowed : Bool) (f : SkFrame) : Nat × State :=
  if 24 ≤ wpEng f ∨ 8 ≤ wpWin f then (wnWindow, s)
  else
    let r := s.windowWrite (wpEng f) (wpWin f) (wpEpoch f) allowed false (wpOff f) f.payload
    (match r.1 with
      | .accepted => 0
      | .stale => 0
      | .refused => wnWindow
      | .fenced => wnFenced, r.2)

/-- WWIN. The masks name engines and peer devices only, so the third test of R354 restrains no host (log 30). -/
def State.hostWrite (s : State) (ep : Nat) (f : SkFrame) : State :=
  let r := s.remoteWrite true f
  r.2.answerWrite ep f r.1

/-- Advance a base past every leading number that has an answer (R554). -/
def SendRx.advance : Nat → SendRx → SendRx
  | 0, x => x
  | k + 1, x =>
    if Tab.get 0 x.answers x.base.toNat = 0 then x
    else advance k { x with base := x.base + 1, answers := Tab.set 0 x.answers x.base.toNat 0 }

/-- A received SEND (R554). -/
def State.sendIn (s : State) (dev : Nat) (f : SkFrame) : State :=
  let n := fld f.param 0 6
  let x := s.rx dev
  let b := x.base.toNat
  let a := Tab.get 0 x.answers n
  if n < b ∨ a ≠ 0 then
    let s := s.bump 8 dev 0 1
    let landed : Bool := decide (n < b) || a == 1
    let s := if landed && decide (wpEng f < 24) && decide (wpWin f < 8) then s.bump 4 (8 * wpEng f + wpWin f) 0 f.payload.length else s
    s.answerWrite dev f (if landed then 0 else if a = 2 then wnWindow else wnFenced)
  else if b + 16384 ≤ n then s.answerWrite dev f wnRange
  else
    let ok := decide (wpEng f < 24) && decide (wpWin f < 8) && (s.window (wpEng f) (wpWin f)).devmask.getLsbD dev
    let r := s.remoteWrite ok f
    let x := SendRx.advance 16384 { x with answers := Tab.set 0 x.answers n (if r.1 = 0 then 1 else if r.1 = wnWindow then 2 else 3) }
    (r.2.setRx dev x).answerWrite dev f r.1

/-- The unanswered SEND frame of a number. -/
def State.sendOut (s : State) (dev n : Nat) : Option SendOut := (s.stx dev).out.find? fun o => o.ssn.toNat == n

/-- A SEND frame has its answer. -/
def State.sendAnswered (s : State) (dev n : Nat) : State :=
  s.setStx dev { s.stx dev with out := (s.stx dev).out.filter fun o => o.ssn.toNat != n }

/-- WACK and WNAK at the sender (R556). An answer to a frame of a tile that has gone returns nothing (R558). -/
def State.writeAnswered (s : State) (dev : Nat) (f : SkFrame) : State :=
  let n := fld f.param 0 6
  match s.sendOut dev n with
  | none => s
  | some o =>
    if f.ty.toNat = tyWack then s.sendAnswered dev n
    else
      let r := fld f.param 12 1
      if r = wnWindow then (s.sendAnswered dev n).windowRefused o.slot o.epoch
      else if r = wnFenced then
        let s := s.sendAnswered dev n
        if (s.slot o.slot).used && (s.slot o.slot).epoch == o.epoch then s.failSlot o.slot stFenced else s
      else if r = wnRange then
        s.setStx dev { s.stx dev with out := (s.stx dev).out.map fun x => if x.ssn.toNat == n then { x with retry := true } else x }
      else s

/-! ## Joining (R523, R545-R549, R555, R785) -/

/-- The device's own JOIN to an endpoint, with the payload size it accepts there (R547). The unacknowledged frames wait, to be numbered
after the JOIN (R523). -/
def State.sendJoin (s : State) (ep kind : Nat) : State :=
  let p := s.peer ep
  let others (l : List SkFrame) : List SkFrame := l.filter fun f => f.ty.toNat != tyJoin
  let base := if isHost ep then 0 else s.sendLow ep
  let f := s.frameTo ep tyJoin
    (putAt (putAt noParam 0 (leBytes 1 kind ++ leBytes 1 1 ++ leBytes 2 (s.port p.port.toNat).psize)) 4 (leBytes 6 base)) []
  (s.setPeer ep { p with
    unacked := [], waiting := others p.unacked ++ others p.waiting, joinSent := true, joinAcked := false }).sendNumbered ep { f with flags := 3 }

/-- An ID conflict: its record, and an EVENT to the partners of the HOST ports (R548). -/
def State.idConflict (s : State) (f : SkFrame) : State :=
  s.record 0x0500 f.port.val (f.smac.toNat % 2 ^ 32) (f.smac.toNat / 2 ^ 32) 0

/-- The device's own ID from a foreign address. -/
def State.isConflict (s : State) (ep : Nat) (f : SkFrame) : Bool := ep == s.dev.id.toNat && f.smac != s.ownMac

/-- What the receiver keeps for a source device, when it joins (R555). -/
def SendRx.join (x : SendRx) (bepoch : Word) (base : BitVec 48) : SendRx :=
  if x.present && x.bepoch == bepoch then
    let b := if x.base.toNat < base.toNat then base else x.base
    { x with base := b, answers := x.answers.filter fun e => decide (b.toNat ≤ e.1) }
  else { present := true, bepoch := bepoch, base := base }

/-- A JOIN that passed steps 1 to 4 of R516. -/
def State.joinIn (s : State) (ep : Nat) (f : SkFrame) : State :=
  if !bitOf f.flags.toNat 1 then s.bump 5 f.port.val 3 1
  else if s.isConflict ep f then (s.idConflict f).eventHosts 2 0 0
  else if ep == s.dev.id.toNat then s
  else if !isHost ep && fld f.param 1 1 != 1 then s.idConflict f
  else
    let p := s.peer ep
    let fresh := p.bepoch != f.bepoch
    let newGen := fresh || p.lgen != f.lgen
    let request := fld f.param 0 1 == 0
    let s := s.setPeer ep { p with
      present := true, joined := true, mac := f.smac, port := BitVec.ofNat 3 f.port.val, bepoch := f.bepoch, lgen := f.lgen
      psize := BitVec.ofNat 16 (fld f.param 2 2), exp := f.seq + 1, ackOwed := 1
      heldReqs := if newGen then [] else p.heldReqs }
    let s := if isHost ep then
        let s := if fresh then s.hostLost (BitVec.ofNat 6 ep) else s
        if fresh && ((s.port f.port.val).role == 0 || (s.port f.port.val).role == 3) then s.setCtx (.port f.port) {} else s
      else s.setRx ep ((s.rx ep).join f.bepoch (BitVec.ofNat 48 (fld f.param 4 6)))
    let s := if bitOf f.flags.toNat 0 && !(request && newGen) then s.ackIn ep false f.ack else s
    let s := if request then s.sendJoin ep 1 else s
    let s := State.drainWaiting (s.peer ep).waiting.length ep s
    s.joinDone ep

/-- A HELLO (R545-R548). The device sends a request to every endpoint it learns of after its link state was lost; later, on first
contact, only to a device with a higher ID. -/
def State.helloIn (s : State) (ep : Nat) (f : SkFrame) : State :=
  if s.isConflict ep f then (s.idConflict f).eventHosts 2 0 0
  else if ep == s.dev.id.toNat then s
  else
    let p := s.peer ep
    let s := s.setPeer ep { p with present := true, mac := f.smac, port := BitVec.ofNat 3 f.port.val }
    if (s.peer ep).joinSent || (p.established) then s
    else if !p.joined || (!isHost ep && decide (s.dev.id.toNat < ep)) then s.sendJoin ep 0
    else s

/-! ## The checks of R516 -/

/-- A port role admits a type from the kind of endpoint that sent it (R500); a STREAM reaches a TRUNK port's role only through a
classifier rule. -/
def roleAdmits (role : Nat) (host : Bool) (t : Nat) : Bool :=
  let fromHost : Bool := host && [tyAck, tyRreg, tyWreg, tyRmem, tyWmem, tySubmit, tyWwin, tyJoin, tyHello].contains t
  let fromDev : Bool := !host && [tyAck, tySend, tyWack, tyWnak, tyJoin, tyHello, tyEvent].contains t
  if role = 0 then fromHost else if role = 1 then t == tyStream else if role = 2 then fromDev else fromHost || fromDev

/-- Steps 2 to 4 of R516 and R502. A SUBMIT that the role or its sender's kind does not admit goes on, to be refused (R501). -/
def State.skAdmits (s : State) (f : SkFrame) (rule : Bool) : Bool × State :=
  let n := f.port.val
  let t := f.ty.toNat
  let q := s.port n
  let deny : Bool × State := (false, s.bump 5 n 3 1)
  if f.ver.toNat % 16 ≠ 1 then (false, s)
  else if !knownType t then deny
  else if f.sys ≠ s.dev.sys ∨ (t ≠ tyStream ∧ t ≠ tyHello ∧ epOf f.dst ≠ s.dev.id.toNat) then (false, s)
  else if !f.crcOk then (false, s.bump 5 n 5 1)
  else if t = tyStream then (if q.role = 1 ∨ (q.role = 3 ∧ rule = true) then (true, s) else deny)
  else if !roleAdmits q.role (isHost (epOf f.src)) t && t != tySubmit then deny
  else if (q.role = 0 ∨ q.role = 2) ∧ q.partner.isSome = true ∧ q.partner ≠ some (BitVec.ofNat 7 (epOf f.src)) then deny
  else (true, s)

/-- What an accepted sequenced frame does. -/
def State.skHandle (s : State) (ep : Nat) (f : SkFrame) : State :=
  let t := f.ty.toNat
  if t = tySubmit then s.submitOrHold ep f
  else if t = tyRreg ∨ t = tyWreg ∨ t = tyRmem ∨ t = tyWmem then s.request ep f
  else if t = tyWwin then s.hostWrite ep f
  else if t = tySend then s.sendIn ep f
  else if t = tyWack ∨ t = tyWnak then s.writeAnswered ep f
  else s

/-- Step 5 of R516, and the effect. -/
def State.skSequence (s : State) (f : SkFrame) : State :=
  let ep := epOf f.src
  let t := f.ty.toNat
  let p := s.peer ep
  let same : Bool := p.joined && p.bepoch == f.bepoch && p.lgen == f.lgen
  if t = tyJoin then s.joinIn ep f
  else if t = tyHello then s.helloIn ep f
  else if !sequencedType t then (if same && bitOf f.flags.toNat 0 then s.ackIn ep (t == tyAck) f.ack else s)
  else if !same then s.bump 5 f.port.val 3 1
  else if f.seq ≠ p.exp then (s.bump 7 ep 0 1).sendAck ep
  else
    let s := s.setPeer ep { p with exp := p.exp + 1, ackOwed := p.ackOwed + 1 }
    let s := if bitOf f.flags.toNat 0 then s.ackIn ep false f.ack else s
    let s := s.skHandle ep f
    if 16 ≤ (s.peer ep).ackOwed then s.sendAck ep else s

/-- A Skouk frame at the internal port, other than a STREAM. -/
def State.skReceive (s : State) (f : SkFrame) : State :=
  match s.skAdmits f false with
  | (true, s) => if f.ty.toNat = tyStream then s else s.skSequence f
  | (false, s) => s

/-- The longest frame a port takes (R498). -/
def Port.maxLen (p : Port) : Nat := if bitOf p.cfg.toNat 7 then 9000 else 1522

/-- A Skouk frame arrives at a port whose link is up (R498, R511, R559). -/
def State.skArrive (s : State) (f : SkFrame) : State :=
  let p := s.port f.port.val
  if !s.netUp || !p.en || p.rate == 0 then s
  else
    let s := s.bump 5 f.port.val 0 1
    if p.maxLen < skLen f then s.bump 5 f.port.val 2 1
    else if p.carries then s.skReceive f else s.bump 5 f.port.val 4 1

/-- The frame of a row: its TYPE is the row's. -/
def typed (t : Nat) (f : SkFrame) : SkFrame := { f with ty := BitVec.ofNat 8 t }

/-! ## The rows -/

/-- SUBMIT. -/
def execSubmit (f : SkFrame) (s : State) : Host.Outcome State Fault Refusal := done (s.skArrive (typed tySubmit f))
/-- RREG. -/
def execRreg (f : SkFrame) (s : State) : Host.Outcome State Fault Refusal := done (s.skArrive (typed tyRreg f))
/-- WREG. -/
def execWreg (f : SkFrame) (s : State) : Host.Outcome State Fault Refusal := done (s.skArrive (typed tyWreg f))
/-- RMEM. -/
def execRmem (f : SkFrame) (s : State) : Host.Outcome State Fault Refusal := done (s.skArrive (typed tyRmem f))
/-- WMEM. -/
def execWmem (f : SkFrame) (s : State) : Host.Outcome State Fault Refusal := done (s.skArrive (typed tyWmem f))
/-- WWIN. -/
def execWwin (f : SkFrame) (s : State) : Host.Outcome State Fault Refusal := done (s.skArrive (typed tyWwin f))
/-- SEND_FRAME_RECEIVE. -/
def execSendFrameReceive (f : SkFrame) (s : State) : Host.Outcome State Fault Refusal := done (s.skArrive (typed tySend f))
/-- WACK. -/
def execWack (f : SkFrame) (s : State) : Host.Outcome State Fault Refusal := done (s.skArrive (typed tyWack f))
/-- WNAK. -/
def execWnak (f : SkFrame) (s : State) : Host.Outcome State Fault Refusal := done (s.skArrive (typed tyWnak f))
/-- ACK. -/
def execAck (f : SkFrame) (s : State) : Host.Outcome State Fault Refusal := done (s.skArrive (typed tyAck f))
/-- JOIN. -/
def execJoin (f : SkFrame) (s : State) : Host.Outcome State Fault Refusal := done (s.skArrive (typed tyJoin f))
/-- HELLO. -/
def execHello (f : SkFrame) (s : State) : Host.Outcome State Fault Refusal := done (s.skArrive (typed tyHello f))

/-- SEND_RANGE_RETRY: a frame answered RANGE is sent again after 100 µs (R556), unless its tile has gone (R558). -/
def execSendRangeRetry (dev : Fin 64) (ssn : BitVec 48) (s : State) : Host.Outcome State Fault Refusal :=
  done (match s.sendOut dev.val ssn.toNat with
    | some o =>
      if !o.retry then s
      else if s.staleSend dev.val o.frame then s.sendAnswered dev.val ssn.toNat
      else
        let s := s.setStx dev.val { s.stx dev.val with
          out := (s.stx dev.val).out.map fun x => if x.ssn == ssn then { x with retry := false } else x }
        s.sendSeq dev.val tySend o.frame.param o.frame.payload
    | none => s)

/-- ACK_TIMER: 10 µs have passed with an acknowledgement owed (R519). -/
def execAckTimer (ep : Fin 128) (s : State) : Host.Outcome State Fault Refusal :=
  done (if s.netUp && decide (0 < (s.peer ep.val).ackOwed) then s.sendAck ep.val else s)

/-- RESEND_TIMEOUT: the oldest frame has been unacknowledged for the timeout (R521); the eighth in a row takes the pair DOWN (R522). -/
def execResendTimeout (ep : Fin 128) (s : State) : Host.Outcome State Fault Refusal :=
  let p := s.peer ep.val
  done (if !s.netUp || p.unacked.isEmpty then s
    else if 7 ≤ p.timeouts then s.pairDown ep.val
    else (s.setPeer ep.val { p with timeouts := p.timeouts + 1 }).goBack ep.val)

/-- HELLO_SEND: a HELLO to the system's group address on every HOST, PEER and TRUNK port whose link is up (R545). -/
def execHelloSend (s : State) : Host.Outcome State Fault Refusal :=
  done (if !s.netUp then s
    else forEach (List.finRange 8) (fun n s =>
      if (s.port n.val).role = 1 then s
      else s.txSk {
        port := n, dmac := s.groupMac, smac := s.ownMac, ty := BitVec.ofNat 8 tyHello, src := BitVec.ofNat 8 s.dev.id.toNat, sys := s.dev.sys
        bepoch := s.dev.epoch, lgen := s.dev.lgen
        param := leBytes 8 Config.clockId.toNat ++ leBytes 2 (s.port n.val).psize ++ List.replicate 14 0 }) s)

/-- PEER_LOST: no HELLO for 10 ms (R549). -/
def execPeerLost (dev : Fin 64) (s : State) : Host.Outcome State Fault Refusal :=
  done (if s.netUp && (s.peer dev.val).present then
    let s := (s.pairDown dev.val).modPeer dev.val fun p => { p with present := false }
    (s.record 0x0501 dev.val 0 0 0).eventHosts 3 dev.val 0
  else s)

/-- IRQ_EVENT_NOTICE (R736). -/
def execIrqEventNotice (s : State) : Host.Outcome State Fault Refusal :=
  let v := s.dev.irqstat &&& s.dev.irqen
  done (if s.netUp && s.dev.irqDue && v != 0 && !s.hostPartners.isEmpty then
    (s.modDev fun d => { d with irqDue := false }).eventHosts 4 v.toNat 0
  else s)

end Sys2Proof.Machine
end

