-- ==== Sys2Proof/Machine/Market.lean ====
section
/-! DEFINITION. The Market: frames at the ports, the classifier, bridging, links and time; and the sensor streams (R494-R512,
R536-R543, R653-R656). -/

namespace Sys2Proof.Machine

/-! ## Streams (R537-R543) -/

/-- Streams write their rings only in ACTIVE and IDLE (R656). -/
def State.streamsRun (s : State) : Bool := s.netUp && (s.dev.pstate == psActive || s.dev.pstate == psIdle)

/-- A frame or slot of a stream is dropped (R537, R540). -/
def State.sdrop (s : State) (st : Nat) : State := s.bump 10 st 1 1

/-- The EVENT of a drop: code 0x0001, the stream, its SDROP count; at most one a millisecond (R543). `send` puts the frames out and
answers how many. -/
def State.dropEvent (s : State) (st : Nat) (send : List Byte → State → Nat × State) : State :=
  let t := s.now
  let due : Bool := match (s.stream st).evtTime with
    | none => true
    | some t0 => decide (1000000 ≤ t - t0.toNat)
  let s := s.tick
  if due then
    let r := send (putAt (putAt (putAt noParam 0 [0x01]) 4 (leBytes 4 st)) 8 (leBytes 4 (s.ctr 10 st 1).toNat)) s
    if r.1 = 0 then r.2 else (r.2.modStream st fun x => { x with evtTime := some (BitVec.ofNat 64 t) }).bump 10 st 2 r.1
  else s

/-- The EVENT to the source of a dropped frame. -/
def State.dropToSource (s : State) (st : Nat) (port : Fin 8) (smac : BitVec 48) (dst : Byte) : State :=
  s.dropEvent st fun param s => (1, s.txSk {
    port := port, dmac := smac, smac := s.ownMac, ty := BitVec.ofNat 8 tyEvent, src := BitVec.ofNat 8 s.dev.id.toNat, dst := dst, sys := s.dev.sys
    bepoch := s.dev.epoch, lgen := s.dev.lgen, param := param })

/-- The EVENT to the partner of every HOST port, for a drop that has no source address. -/
def State.dropToHosts (s : State) (st : Nat) : State :=
  s.dropEvent st fun param s => (s.hostPartners.length, forEach s.hostPartners (fun ep s => s.sendPlain ep tyEvent param) s)

/-- What a slot's header carries beside LEN (R539). -/
structure SlotHead where
  srct : Nat
  port : Byte
  fcnt : Nat
  sid : Nat
  aafh : List Byte

/-- PIDX and CIDX of a ring (R538). -/
def State.ringIdx (s : State) (r : StreamRec) : Nat × Nat := (leNat (s.bytes r.ring 8), leNat (s.bytes (r.ring + 8) 8))

/-- A stream has a free slot that takes `n` payload bytes (R540). -/
def State.slotFits (s : State) (r : StreamRec) (n : Nat) : Bool :=
  let i := s.ringIdx r
  decide (n ≤ r.ssize * 64 - 64) && decide ((BitVec.ofNat 64 i.1 - BitVec.ofNat 64 i.2).toNat < 2 ^ r.lnslot)

/-- The address of the slot at PIDX. -/
def State.slotAddr (s : State) (r : StreamRec) : Nat := r.ring + 64 + (s.ringIdx r).1 % 2 ^ r.lnslot * (r.ssize * 64)

/-- The slot may be written: the ring lies in DRAM (R41) and the slot in no verified region (R702). -/
def State.slotWritable (s : State) (r : StreamRec) : Bool :=
  inDram r.ring (64 + 2 ^ r.lnslot * (r.ssize * 64)) && !s.inVerified (s.slotAddr r) (r.ssize * 64) && !s.inVerified r.ring 8

/-- Fill the slot at PIDX, then advance PIDX, and submit the job of a period it completes (R539, R540, R542). -/
def State.fillSlot (s : State) (st : Nat) (h : SlotHead) (data : List Byte) : State :=
  let r := s.streamRec st
  let t := s.now
  let s := s.tick
  let p := (s.ringIdx r).1
  let head := leBytes 8 t ++ leBytes 8 h.srct ++ leBytes 2 data.length ++ [h.port, 0] ++ leBytes 4 h.fcnt ++ leBytes 8 h.sid ++
    putAt (List.replicate 16 0) 0 (h.aafh.take 16) ++ List.replicate 16 0
  let s := ((s.marketWrite (s.slotAddr r) (head ++ data)).marketWrite r.ring (leBytes 8 (p + 1))).bump 10 st 0 1
  if r.period ≠ 0 ∧ (p + 1) % r.period = 0 ∧ (s.boundQueue st).isSome then s.trigger st ((p + 1) / r.period - 1) else s

/-- A frame that a rule directs to a stream: `kind` is its SRC code, `aux` sends the EVENT of a drop. -/
def State.streamFrame (s : State) (st kind : Nat) (evt : State → State) (h : SlotHead) (data : List Byte) : State :=
  let r := s.streamRec st
  if !s.streamsRun || (s.stream st).stopped || !r.en || r.src != kind then s.sdrop st
  else if !s.slotFits r data.length then evt (s.sdrop st)
  else if !s.slotWritable r then s.sdrop st
  else s.fillSlot st h data

/-- The 32-bit AVTP timestamp extended to the 64-bit time nearest to the reception (log 31). -/
def extendStamp (now ts : Nat) : Nat :=
  let c := now / 2 ^ 32 * 2 ^ 32 + ts % 2 ^ 32
  if now + 2 ^ 31 < c ∧ 2 ^ 32 ≤ c then c - 2 ^ 32 else if c + 2 ^ 31 < now then c + 2 ^ 32 else c

/-- An Ethernet frame with action STREAM (R537-R541). A Skouk STREAM frame passes R516 first. -/
def State.toStream (s : State) (st : Nat) (fr : EthFrame) : State :=
  let port : Byte := BitVec.ofNat 8 fr.port.val
  match fr.body with
  | .avtp a =>
    let evt (s : State) : State := s.dropToSource st fr.port fr.smac 0
    if (s.port fr.port.val).role != 1 && (s.port fr.port.val).role != 3 then s
    else if !a.aaf then evt (s.sdrop st)
    else s.streamFrame st 0 evt
      { srct := extendStamp s.now a.tstamp.toNat, port := port, fcnt := a.seqNum.toNat, sid := a.sid.toNat, aafh := a.aafh } a.payload
  | .skouk f =>
    if f.ty.toNat = tyStream then
      match s.skAdmits f true with
      | (true, s) => s.streamFrame st 1 (fun s => s.dropToSource st fr.port fr.smac f.src)
          { srct := fld f.param 12 8, port := port, fcnt := fld f.param 8 4, sid := fld f.param 0 8, aafh := [] } f.payload
      | (false, s) => s
    else s.sdrop st
  | .other _ => s.sdrop st

/-! ## The classifier (R506-R509) -/

/-- The stream ID that MSID compares: AVTP stream_id, or the tag of a Skouk STREAM frame. -/
def frameSid (fr : EthFrame) : Option Nat :=
  match fr.body with
  | .avtp a => some a.sid.toNat
  | .skouk f => if f.ty.toNat = tyStream then some (fld f.param 0 8) else none
  | .other _ => none

/-- Rule `i` decides the frame (R508). -/
def State.ruleHits (s : State) (i : Nat) (fr : EthFrame) : Bool :=
  let o := 32 * i
  let m := s.clsByte o
  let tag := s.clsFld (o + 4) 2
  bitOf m 0 && bitOf (s.clsByte (o + 1)) fr.port.val &&
    (!bitOf m 1 || bitsOf tag 11 0 == fr.vid.toNat) && (!bitOf m 2 || s.clsFld (o + 2) 2 == fr.etype.toNat) &&
    (!bitOf m 3 || bitsOf tag 14 12 == fr.pcp.toNat) && (!bitOf m 4 || s.clsFld (o + 6) 6 == fr.dmac.toNat) &&
    (!bitOf m 5 || frameSid fr == some (s.clsFld (o + 12) 8))

/-- The first rule that decides a frame. -/
def State.ruleOf (s : State) (fr : EthFrame) : Option Nat :=
  if (s.table 4).expert then (List.range 432).find? fun i => s.ruleHits i fr else none

/-- Keep a filter's tokens and the time of their last fill. -/
def State.setMeter (s : State) (k c e : Nat) (t : Quad) : State :=
  { s with market := { s.market with meters := Tab.set none s.market.meters k (some (c, e, t)) } }

/-- The two-rate, three-colour meter of a filter (R509): whether the frame is admitted, and the state after. -/
def State.meter (s : State) (k : Nat) (fr : EthFrame) : Bool × State :=
  let o := (432 + k) * 32
  let ctl := s.clsByte o
  if !bitOf ctl 0 then (true, s)
  else
    let max := s.clsFld (o + 2) 2
    if max ≠ 0 ∧ max < fr.len then (false, s)
    else
      let t := s.now
      let s := s.tick
      let cbs := 8 * s.clsFld (o + 8) 4
      let ebs := 8 * s.clsFld (o + 16) 4
      let (c, e) := match Tab.get none s.market.meters k with
        | none => (cbs, ebs)
        | some (c, e, t0) =>
          let dt := t - t0.toNat
          (min cbs (c + s.clsFld (o + 4) 4 * dt / 1000000), min ebs (e + s.clsFld (o + 12) 4 * dt / 1000000))
      let n := 8 * fr.len
      let yellowIn : Bool := bitOf ctl 2 && fr.dei
      let green : Bool := !yellowIn && decide (n ≤ c)
      let yellow : Bool := !green && decide (n ≤ e)
      (green || (yellow && !bitOf ctl 1), s.setMeter k (if green then c - n else c) (if yellow then e - n else e) (BitVec.ofNat 64 t))

/-! ## Bridging (R495, R504) -/

/-- Learn the source of a bridged frame; the table holds 4,096 entries. -/
def State.learn (s : State) (fr : EthFrame) : State :=
  let l := s.market.learned.filter fun x => !(x.1 == fr.smac && x.2.1 == fr.vid)
  { s with market := { s.market with learned := ((fr.smac, fr.vid, fr.port) :: l).take 4096 } }

/-- Bridge a frame to the port its destination was learned on, or to every other port, in a traffic class. Only TRUNK ports carry
bridged traffic (R500). -/
def State.bridge (s : State) (fr : EthFrame) (cls : Nat) : State :=
  let open1 (n : Fin 8) : Bool := n != fr.port && (s.port n.val).role == 3 && (s.port n.val).carries
  if (s.port fr.port.val).role != 3 then s
  else
    let outs := match s.market.learned.find? (fun x => x.1 == fr.dmac && x.2.1 == fr.vid) with
      | some x => if open1 x.2.2 then [x.2.2] else []
      | none => (List.finRange 8).filter open1
    forEach outs (fun n s => s.egress n.val cls (.bridged n fr)) (s.learn fr)

/-- Deliver a frame to the internal port, which takes Skouk frames (R505). -/
def State.toLocal (s : State) (fr : EthFrame) : State :=
  match fr.body with
  | .skouk f => if fr.etype = s.dev.sktype then s.skReceive { f with port := fr.port, smac := fr.smac, dmac := fr.dmac } else s
  | _ => s

/-- What the Market does with an admitted frame (R505, R508). -/
def State.classify (s : State) (fr : EthFrame) : State :=
  match s.ruleOf fr with
  | some i =>
    let o := 32 * i
    let k := s.clsByte (o + 22)
    let r := if k < 64 then s.meter k fr else (true, s)
    if !r.1 then r.2.bump 6 k 0 1
    else
      let s := r.2
      let a := s.clsByte (o + 20)
      if a = 1 then s.toLocal fr
      else if a = 2 then s.toStream (s.clsByte (o + 21) % 16) fr
      else if a = 3 then s
      else
        let tco := s.clsByte (o + 23)
        s.bridge fr (if bitOf tco 3 then tco % 8 else fr.pcp.toNat)
  | none =>
    if (fr.dmac == s.ownMac || fr.dmac == s.groupMac) && fr.etype == s.dev.sktype then s.toLocal fr else s.bridge fr fr.pcp.toNat

/-- A frame arrives at a port: FCS, length and MACsec (R498, R511), then the Market. MKA and 802.1AS frames end at the port. -/
def State.receiveFrame (s : State) (fr : EthFrame) : State :=
  let n := fr.port.val
  let p := s.port n
  if !s.netUp || !p.en || p.rate == 0 then s
  else
    let s := s.bump 5 n 0 1
    let control : Bool := fr.etype == 0x888E || fr.etype == 0x88F7
    if !fr.fcsOk then s
    else if p.maxLen < fr.len then s.bump 5 n 2 1
    else if bitOf p.cfg.toNat 8 && !(control && !fr.secured) && !(p.secured && fr.secured && fr.icvOk) then s.bump 5 n 4 1
    else if control then s
    else s.classify fr

/-- FRAME_RECEIVE. -/
def execFrameReceive (fr : EthFrame) (s : State) : Host.Outcome State Fault Refusal := done (s.receiveFrame fr)

/-- STREAM: a frame that carries a Skouk STREAM frame. -/
def execStream (fr : EthFrame) (s : State) : Host.Outcome State Fault Refusal :=
  match fr.body with
  | .skouk f => done (s.receiveFrame { fr with body := .skouk (typed tyStream f) })
  | _ => done s

/-- AAF_FRAME: a frame that carries an AVTP frame. -/
def execAafFrame (fr : EthFrame) (s : State) : Host.Outcome State Fault Refusal :=
  match fr.body with
  | .avtp _ => done (s.receiveFrame fr)
  | _ => done s

/-! ## Links and time (R497, R511, R512) -/

/-- The rate of a link: the highest that both partners advertise, or the one that `PORTCFG` forces; 0 where there is none. -/
def linkRate (cfg : Nat) (partner : BitVec 3) : Nat :=
  let both := bitsOf cfg 6 4 &&& partner.toNat
  if !bitOf cfg 3 && bitsOf cfg 6 4 != 1 && bitsOf cfg 6 4 != 2 && bitsOf cfg 6 4 != 4 then 0
  else if 4 ≤ both then 3 else if 2 ≤ both then 2 else both

/-- The MACsec keys of the part are usable: SETCAK has run, and the lifecycle state admits data frames (R511, R715). -/
def State.macKeys (s : State) : Bool := s.sec.cak.isSome && (s.sec.lc = 0x3 || s.sec.lc = 0x5)

/-- LINK_UP: a port trains. A MACsec port with usable keys is secured through MKA with a partner that holds the CAK (log 32). -/
def execLinkUp (port : Fin 8) (partnerRates : BitVec 3) (s : State) : Host.Outcome State Fault Refusal :=
  let p := s.port port.val
  let r := linkRate p.cfg.toNat partnerRates
  done (if !s.netUp || !p.en || p.downf || p.rate != 0 || r == 0 then s
    else (s.setPort port.val { p with
      rate := BitVec.ofNat 2 r, asleep := false, secured := bitOf p.cfg.toNat 8 && s.macKeys }).setIrq irqLink)

/-- LINK_DOWN: the link is lost; its partner is free to change (R502), and its pairs go DOWN. -/
def execLinkDown (port : Fin 8) (s : State) : Host.Outcome State Fault Refusal :=
  done (if (s.port port.val).rate == 0 then s else s.linkRelease port.val)

/-- TIME_SYNC: the first synchronisation to a grandmaster steps the time to the domain's; the times the part has noted keep their age.
A part that becomes grandmaster makes no step (R512). -/
def execTimeSync (t : Quad) (grandmaster : Bool) (s : State) : Host.Outcome State Fault Refusal :=
  done (if !s.netUp then s
    else if grandmaster then s.modDev fun d => { d with synced := true }
    else
      let d := t - BitVec.ofNat 64 s.now
      let s := s.modDev fun x => { x with time := t, clk := x.clk + 1, synced := true }
      let s := s.modSec fun x => { x with nonce := x.nonce.map fun n => (n.1, n.2 + d) }
      let s := { s with market := { s.market with meters := s.market.meters.map fun m => (m.1, m.2.map fun v => (v.1, v.2.1, v.2.2 + d)) } }
      forEach (List.range 16) (fun st s => s.modStream st fun x => { x with evtTime := x.evtTime.map fun v => v + d }) s)

/-! ## TDM and SPI inputs (R653-R656) -/

/-- The sample in a 32-bit TDM slot: the top 16 or 24 bits, sign-extended. -/
def tdmSample (cfg : Nat) (w : Word) : Int := if bitOf cfg 1 then toSigned 24 (w.toNat / 256) else toSigned 16 (w.toNat / 65536)

/-- The slots that a TDM input captures. -/
def tdmSlots (cfg : Nat) : List Nat := (List.range 8).filter fun k => bitOf cfg (8 + k)

/-- A sample of the Watch's input `i`, channel `c` (R659). -/
def State.watchSample (s : State) (i c : Nat) (x : Int) : State :=
  s.modWatch fun w => { w with hist := Tab.set [] w.hist (16 * i + c) (Tab.get [] w.hist (16 * i + c) ++ [x]) }

/-- The streams fed by an auxiliary input. -/
def State.auxStreams (s : State) (src i : Nat) : List Nat :=
  (List.range 16).filter fun st => (s.streamRec st).en && (s.streamRec st).src == src && (s.streamRec st).sidx == i

/-- Bytes of an auxiliary input for a stream: units of `n` bytes, as many whole units to a slot as fit (R656). What the record leaves
of FCNT and SID is open (log 1). -/
def State.auxBytes (s : State) (st src n : Nat) (data : List Byte) : State :=
  let x := s.stream st
  let r := s.streamRec st
  if x.stopped || !s.netUp || n = 0 then s
  else
    let (t, s) := if x.partialBytes.isEmpty then (BitVec.ofNat 64 s.now, s.tick) else (x.partialTime, s)
    let buf := x.partialBytes ++ data
    let units := (r.ssize * 64 - 64) / n
    if units * n ≤ buf.length then
      let s := s.modStream st fun x => { x with partialBytes := [] }
      let k := s.free
      (s.used 2).streamFrame st src (fun s => s.dropToHosts st)
        { srct := t.toNat, port := 0xFF, fcnt := k, sid := Config.freeNat (s.fresh + 1), aafh := [] } (buf.take (units * n))
    else s.modStream st fun x => { x with partialBytes := buf, partialTime := t }

/-- TDM_FRAME: a frame of eight 32-bit slots at a TDM input that captures. -/
def execTdmFrame (input : Fin 4) (slots : List Word) (s : State) : Host.Outcome State Fault Refusal :=
  let p := s.port (8 + input.val)
  let cfg := p.cfg.toNat
  if !s.capturing (8 + input.val) || s.dev.pstate == psOff then done s
  else
    let ks := tdmSlots cfg
    let smp (k : Nat) : Int := tdmSample cfg (slots[k]?.getD 0)
    let s := s.setPort (8 + input.val) { p with sync := true }
    let s := forEach ks (fun k s => s.watchSample input.val k (smp k)) s
    let data := (ks.map fun k => leBytes 4 (ofSigned 32 (smp k))).flatten
    done (forEach (s.auxStreams 2 input.val) (fun st s => s.auxBytes st 2 data.length data) s)

/-- TDM_SYNC_LOSS: no frame sync for two frames: an AUX_TDM fault of the stream (R561, R654). -/
def execTdmSyncLoss (input : Fin 4) (s : State) : Host.Outcome State Fault Refusal :=
  let p := s.port (8 + input.val)
  if !s.capturing (8 + input.val) || !p.sync || s.dev.pstate == psOff then done s
  else
    let s := s.setPort (8 + input.val) { p with sync := false }
    done (forEach (s.auxStreams 2 input.val) (fun st s => s.raise { source := 0x30, inst := st }) s)

/-- The 16-bit big-endian words of a sample record, as signed samples (log 33). -/
def spiWords : List Byte → List Int
  | a :: b :: l => toSigned 16 (a.toNat * 256 + b.toNat) :: spiWords l
  | _ => []

/-- SPI_TRANSACTION: an SPI controller reads the bytes its configuration asks for. -/
def execSpiTransaction (ctl : Fin 2) (bytes : List Byte) (s : State) : Host.Outcome State Fault Refusal :=
  let p := s.port (12 + ctl.val)
  if !s.capturing (12 + ctl.val) || s.dev.pstate == psOff || bytes.length != bitsOf p.cfg.toNat 12 8 + 1 then done s
  else
    let ws := spiWords bytes
    let s := forEach (List.range ws.length) (fun k s => s.watchSample (4 + ctl.val) k (ws[k]?.getD 0)) s
    done (forEach (s.auxStreams 3 ctl.val) (fun st s => s.auxBytes st 3 bytes.length bytes) s)

/-- AUX_SPI_TIMEOUT: a transaction has not ended within four periods (R561, R655). -/
def execAuxSpiTimeout (ctl : Fin 2) (s : State) : Host.Outcome State Fault Refusal :=
  if !s.capturing (12 + ctl.val) || s.dev.pstate == psOff then done s
  else done (forEach (s.auxStreams 3 ctl.val) (fun st s => s.raise { source := 0x31, inst := st }) s)

end Sys2Proof.Machine
end

