-- ==== Sys2Proof/Machine/Power.lean ====
section
/-! DEFINITION. Power states, restore, power failure, and the power and thermal limits (R613-R652). -/

namespace Sys2Proof.Machine

/-! ## Powering off -/

/-- What an engine keeps when its island loses power: its standing with the Bell and its Winograd disable. -/
def Engine.off (e : Engine) : Engine :=
  { fenced := e.fenced, retired := e.retired, winoOff := e.winoOff, islandOff := e.islandOff, testing := e.testing, readmit := e.readmit, scrubs := e.scrubs }

/-- Engines, Mills, fabric and Granary are powered off (R625 step 3). -/
def State.powerDown (s : State) : State :=
  { s with
    engines := (s.engines.map fun p => (p.1, p.2.off)).filter fun p => decide (p.2 ≠ {})
    slices := (s.slices.map fun p => (p.1, ({ disabled := p.2.disabled, testing := p.2.testing } : Slice))).filter fun p => decide (p.2 ≠ {}) }

/-- Every link of P0 to P7 is released. -/
def State.allLinksDown (s : State) : State := forEach (List.range 8) (fun n s => s.linkRelease n) s

/-- What the Market core and DRAM lose when they are powered off. -/
def State.losePowered (s : State) : State :=
  let s := forEach (List.range 16) (fun st s => s.modStream st fun x => { x with partialBytes := [], retry := [] }) s
  { s with dram := [], market := {} }

/-! ## Entering STANDBY and WATCH (R624-R626) -/

/-- The pending request is for `r` and has no unmet condition; an OPEN at its steps 3 to 6 completes first (R717). -/
def State.mayEnter (s : State) (r : BitVec 2) : Bool := s.power.request == some r && s.psblk == 0 && s.sec.opening.isNone

/-- Step 1 of R625; the debug session closes (R712), and engines whose clocks stood in IDLE go on (R625 step 2). -/
def State.enter (s : State) (r : BitVec 2) : State :=
  let was := s.dev.pstate
  let s := ((s.modPower fun p => { p with request := none, entering := r, wakeLatched := false }).modDev fun d => { d with
    pstate := psEntering, retryDue := true }).closeSession 1
  if was == psIdle then s.wakeEngines else s

/-- Every Tally slot is released. -/
def State.slotsFree (s : State) : Bool := s.slots.all fun x => !x.2.used

/-- Steps 3 and 4 of R625. -/
def State.standbyDone (s : State) : State := (s.powerDown.entryEnd psStandby).attestSettle

/-- TC10 sleep requests to the partners of ports enabled for TC10 (R626 step 4). -/
def State.tc10Sleep (s : State) : State :=
  forEach (List.finRange 8) (fun n s =>
    let p := s.port n.val
    if p.en && bitOf p.cfg.toNat 9 && p.rate != 0 then (s.emit (.tc10Sleep n)).setPort n.val { p with asleep := true } else s) s

/-- Steps 4 to 6 of R626; the verified regions empty (R703). -/
def State.watchDone (s : State) : State :=
  let s := (s.tc10Sleep.allLinksDown.losePowered.modSec fun c => { c with regions := [] }).modPower fun p => { p with
    lowPower := true, request := none }
  (s.closeSession 1).entryEnd psWatch |>.attestSettle

/-- STANDBY_ENTRY: a request whose conditions are met enters ENTERING; an entry whose slots are all released ends. -/
def execStandbyEntry (s : State) : Host.Outcome State Fault Refusal :=
  let p := s.dev.pstate
  let s := if (p == psActive || p == psIdle) && s.mayEnter 2 then s.enter 2 else s
  done (if s.dev.pstate == psEntering && s.power.entering = 2 && s.slotsFree then s.standbyDone else s)

/-- WATCH_ENTRY: the same for WATCH; from STANDBY the first steps are not taken. -/
def execWatchEntry (s : State) : Host.Outcome State Fault Refusal :=
  let p := s.dev.pstate
  if p == psStandby && s.mayEnter 3 then done s.watchDone
  else
    let s := if (p == psActive || p == psIdle) && s.mayEnter 3 then s.enter 3 else s
    done (if s.dev.pstate == psEntering && s.power.entering = 3 && s.slotsFree then s.powerDown.watchDone else s)

/-! ## Restore (R636-R640) -/

/-- An engine is powered again: its Barn and Stook are cleared (R341). -/
def State.powerEngine (s : State) (n : Nat) : State := s.modEng n fun e => e.off

/-- A slice is powered again: its lines are invalid (R341). -/
def State.powerSlice (s : State) (n : Nat) : State := s.modSlice n fun x => { x with tags := [], plru := [], bad := [], misses := [] }

/-- Entry 15 (R631, R638 steps 3 and 4): ACTIVE, or IDLE after DEBUG alone; then what waited for the exit. -/
def State.restoreDone (s : State) : State :=
  let idle := s.power.debugOnly
  let late := s.power.lateReq
  let due := s.power.watchDue
  let s := (s.modDev fun d => { d with pstate := if idle then psIdle else psActive, psreq := if idle then 1 else 0 }).modPower fun p => { p with
    lateReq := none, watchDue := false, debugOnly := false, restorePos := 0 }
  let s := (s.setIrq irqWake).bump 13 0 3 1
  let s := if due then s.setIrq irqWatch else s
  let s := if (s.table 2).commit then s.tabActivate 2 else s
  let s := match late with
    | some v => s.takeRequest v
    | none => s
  s.attestSettle.runHeld.wakeEngines.retryAll

/-- Bring up the domain of a restore entry (R637). -/
def State.restoreDomain (s : State) (e : Nat) : State :=
  if e = 0 then s.modPower fun p => { p with lowPower := false }
  else if e = 3 then forEach (List.range 32) (fun n s => s.powerSlice n) s
  else if e = 4 then forEach (List.range 32) (fun n s => s.powerSlice (32 + n)) s
  else if 9 ≤ e ∧ e ≤ 14 then forEach (List.range 4) (fun k s => s.powerEngine (4 * (e - 9) + k)) s
  else if e = 5 then s.modSec fun c => { c with reeveHalted := false }
  else if e = 15 then s.restoreDone
  else s

/-- The firmware that the exit from WATCH reloads agrees with its measurement (R640, R686). After a recovery boot no slot is the
booted one, and the outcome is open (log 36). -/
def State.firmwareGood (s : State) : Bool :=
  if s.dev.bootSlot = 2 then s.free % 2 == 0 else fwHash (s.slotByte s.dev.bootSlot.toNat) 40 == s.sec.m1

/-- RESTORE_STEP: the next domain of the exit comes up. The reload of the Reeve's firmware waits for the release of the inhibit
(R646), and firmware that differs from its measurement resets the part as a brown-out does (R686). -/
def execRestoreStep (s : State) : Host.Outcome State Fault Refusal :=
  let watch := s.power.restoreFrom == psWatch
  if s.dev.pstate != psRestoring then done s
  else
    match (restoreEntries watch)[s.power.restorePos]? with
    | none => done s
    | some e =>
      let s := s.modPins fun p => { p with wakePulse := false }
      if e = 5 ∧ s.power.inhibit = true then done s
      else if e = 5 ∧ s.firmwareGood = false then done (s.used.brownoutBoot 5)
      else done (((if e = 5 then s.used else s).modPower fun p => { p with restorePos := p.restorePos + 1 }).restoreDomain e)

/-! ## Wakes (R629, R632) -/

/-- A TIMER or WAKE_IN wake; in OFF it drives WAKE_OUT high until PORST_N. -/
def State.wakeAlways (s : State) (src : Nat) : State :=
  if s.dev.pstate == psOff then
    if s.wakeEnabled src then
      (s.modPower fun w => { w with wakesrc := w.wakesrc ||| (1#7 <<< src) }).modPins fun p => { p with wakeOut := true }
    else s
  else s.wake src

/-- WAKE_IN: high for at least 1 µs. -/
def execWakeIn (highNs : Nat) (s : State) : Host.Outcome State Fault Refusal := done (if 1000 ≤ highNs then s.wakeAlways wkPin else s)

/-- WAKE_TIMER_EXPIRY: a timer of 0 seconds is none. -/
def execWakeTimerExpiry (s : State) : Host.Outcome State Fault Refusal := done (if s.power.wtimer = 0 then s else s.wakeAlways wkTimer)

/-- The state a wake acts in: during an entry or exit, the STANDBY or WATCH that it leads to or comes from. -/
def State.restState (s : State) : BitVec 3 :=
  if s.dev.pstate == psEntering then (if s.power.entering = 3 then psWatch else psStandby)
  else if s.dev.pstate == psRestoring then s.power.restoreFrom
  else s.dev.pstate

/-- TC10_WAKE: a port enabled for TC10; in WATCH only the listening one. -/
def execTc10Wake (port : Fin 8) (s : State) : Host.Outcome State Fault Refusal :=
  let p := s.port port.val
  done (if p.en && bitOf p.cfg.toNat 9 && (s.restState != psWatch || s.power.lport.toNat == port.val) then s.wake wkTc10 else s)

/-! ## Rails (R632-R634) -/

/-- OFF: only VAUX is left. Debug closes (R712); DRAM and accepted work are lost (R634). -/
def State.toOff (s : State) : State :=
  let s := s.closeSession 2
  let s := { s.powerDown.allLinksDown.losePowered with
    ledger := [], mirror := [], badP := [], badM := [], jobs := [], runs := [], areas := [], cells := [], slots := [] }
  (s.modDev fun d => { d with pstate := psOff }).modPower fun p => { p with
    lowPower := true, request := none, wakeLatched := false, lateReq := none, entering := 0 }

/-- RAIL_REMOVAL_IN_WATCH: the Hearth enters OFF and starts a flush. -/
def execRailRemovalInWatch (mask : BitVec 4) (s : State) : Host.Outcome State Fault Refusal :=
  done (if s.dev.pstate == psWatch && mask != 0 then s.toOff.flush else s)

/-- RAIL_LOST: outside WATCH the loss makes a RAIL_LOST record first. -/
def execRailLost (mask : BitVec 4) (s : State) : Host.Outcome State Fault Refusal :=
  let p := s.dev.pstate
  done (if p == psWatch || p == psOff || mask == 0 then s
    else (s.record 0x0304 mask.toNat p.toNat s.usedEntries 0).toOff)

/-! ## Power failure (R607, R641-R646) -/

/-- Power-fail detection starts: the PFAIL record and a flush, with which OPSECS and PCYCLES are stored (R607, R734). -/
def State.powerFail (s : State) (trigger : Nat) : State :=
  let save := s.book.pfailArmed && !s.power.inhibit
  let s := s.pfailRecord trigger
  if save then s.modSec fun c => { c with storedOpsecs := s.dev.opsecs, storedPcycles := s.dev.pcycles } else s

/-- PFAIL_N: a low level of at least 200 ns is recognised (R772). -/
def execPfailN (lowNs : Nat) (s : State) : Host.Outcome State Fault Refusal :=
  done (if lowNs < 200 || s.power.pfail then s
    else ((s.modPower fun p => { p with pfail := true }).setIrq irqPf).powerFail 0)

/-- PFAIL_N_RELEASE: a further record may be made once VAUX also stands above VAUX_OK. -/
def execPfailNRelease (s : State) : Host.Outcome State Fault Refusal :=
  done (if !s.power.pfail then s
    else ((s.modPower fun p => { p with pfail := false }).setIrq irqPf).modBook fun b => { b with pfailArmed := b.pfailArmed || s.power.vauxWasOk })

/-- VAUX falls below VAUX_PF. -/
def State.belowPF (s : State) : State :=
  if s.power.belowPF then s
  else ((s.modPower fun p => { p with belowPF := true, vauxWasOk := false }).setIrq irqPf).powerFail 1

/-- VAUX_PF. -/
def execVauxPf (s : State) : Host.Outcome State Fault Refusal := done s.belowPF

/-- VAUX_INH: the inhibit is set and stops what writes flash: a flush, and an erase of the Book's region, whose NV_CUT record waits for
the release (R643). VAUX has passed VAUX_PF on its way. -/
def execVauxInh (s : State) : Host.Outcome State Fault Refusal :=
  done (if s.power.inhibit then s
    else
      let s := s.belowPF
      let s := ((s.modPower fun p => { p with inhibit := true, vauxMayFail := true }).setIrq irqPf).cutFlush
      if s.book.erasing then (s.cutErase).modPower fun p => { p with nvCut := some (1, 0x04100000) } else s)

/-- VAUX_OK: the inhibit is released; the NV_CUT record; a flush of what is buffered; a reset held by the inhibit ends (R643, R772). -/
def execVauxOk (s : State) : Host.Outcome State Fault Refusal :=
  done (if !s.power.belowPF && !s.power.inhibit && s.power.vauxWasOk then s
    else
      let held := s.power.bootHeld
      let was := s.power.inhibit
      let cut := s.power.nvCut
      let s := (s.modPower fun p => { p with inhibit := false, belowPF := false, vauxWasOk := true, nvCut := none, bootHeld := false }).setIrq irqPf
      let s := s.modBook fun b => { b with pfailArmed := b.pfailArmed || !s.power.pfail }
      let s := match cut with
        | some c => s.record 0x0305 c.1.toNat c.2.toNat 0 0
        | none => s
      let s := if was && !s.book.buf.isEmpty then s.flush else s
      if held && !s.power.brownout then s.countPowerUp.boot else s)

/-! ## Power profiles (R647-R649) -/

/-- The limit of the profile in watts. -/
def profileLimit (p : Nat) : Nat := if p = 0 then 120 else if p = 1 then 200 else if p = 2 then 280 else 360

/-- Count the engine clock step that a ceiling has made from one state to the next (R670). -/
def State.countStep (s t : State) : State := if s.clockInForce = t.clockInForce then t else t.bump 13 0 4 1

/-- The power ceiling after an estimate (R649). -/
def State.powerStep (s : State) (avg10us avg1ms vinAmps : Nat) : State :=
  let lim := profileLimit s.dev.profile.toNat
  if lim < avg1ms ∨ 12 * lim < 10 * avg10us ∨ 200 < vinAmps then
    s.modPower fun p =>
      if 10 < p.powerCeil then { p with powerCeil := p.powerCeil - 1, lowRun := 0 }
      else { p with floorGroups := min 6 (p.floorGroups + 1), lowRun := 0 }
  else if 100 * avg1ms < 95 * lim then
    s.modPower fun p =>
      if 99 ≤ p.lowRun then
        { p with powerCeil := min 26 (p.powerCeil + 1), floorGroups := 0, lowRun := 0 }
      else { p with lowRun := p.lowRun + 1 }
  else s.modPower fun p => { p with lowRun := 0 }

/-- POWER_ESTIMATE: one 10 µs period, with the two averages in watts and the VIN_CORE current in amperes. -/
def execPowerEstimate (avg10us avg1ms vinAmps : Nat) (s : State) : Host.Outcome State Fault Refusal :=
  if s.dev.pstate == psOff || s.pins.thermtrip then done s
  else
    let t := s.modPower fun p => { p with est := BitVec.ofNat 9 (min 511 avg1ms) }
    let u := t.countStep (t.powerStep avg10us avg1ms vinAmps)
    done (if u.power.floorGroups < s.power.floorGroups then u.wakeEngines else u)

/-! ## Temperature (R650-R652) -/

/-- A reading of TJ. -/
def State.readTj (s : State) (tj : Int) : State := s.modPower fun p => { p with tj := tj, tjmax := max p.tjmax tj }

/-- The throttle threshold of the grade (R650). -/
def ttHr : Int := if Config.gradeX then 110 else 100

/-- The engine clock in MHz. -/
def State.clockMHz (s : State) : Nat := 100 * s.clockInForce

/-- The thermal ceiling after a reading (R651), with THROTTLE_ON at the first step since a reset (R669). -/
def State.thermalStep (s : State) (tj : Int) : State :=
  let s := s.readTj tj
  if ttHr ≤ tj then
    let began := s.power.thermCeil = 26
    let t := s.countStep (s.modPower fun p => { p with thermCeil := max 10 (p.thermCeil - 1) })
    let t := if began then t.setIrq irqTherm else t
    if t.power.throttledOnce then t
    else (t.modPower fun p => { p with throttledOnce := true }).record 0x0302 (ofSigned 32 tj) t.clockMHz 0 0
  else if tj ≤ ttHr - 3 then s.countStep (s.modPower fun p => { p with thermCeil := min 26 (p.thermCeil + 1) })
  else s

/-- THERMAL_STEP. -/
def execThermalStep (tj : Int) (s : State) : Host.Outcome State Fault Refusal :=
  if s.dev.pstate == psOff || s.pins.thermtrip then done s
  else done (s.thermalStep tj)

/-- The derate ceiling after a reading, on a -X part. -/
def State.thermalDerate (s : State) (tj : Int) : State :=
  let s := s.readTj tj
  if Config.gradeX then s.modPower fun p => { p with derate := if 105 < tj then true else if tj ≤ 103 then false else p.derate } else s

/-- THERMAL_DERATE. -/
def execThermalDerate (tj : Int) (s : State) : Host.Outcome State Fault Refusal :=
  if s.dev.pstate == psOff || s.pins.thermtrip then done s
  else done (s.thermalDerate tj)

/-- THERMTRIP: the comparator trips at 120 °C; every regulator but the Hearth's is switched off. -/
def execThermtrip (tj : Int) (s : State) : Host.Outcome State Fault Refusal :=
  if tj < 120 || s.pins.thermtrip || s.dev.pstate == psOff then done s
  else
    let s := (s.readTj tj).modPins fun p => { p with thermtrip := true }
    done ((s.record 0x0303 (ofSigned 32 tj) s.dev.pstate.toNat 0 0).powerDown.allLinksDown)

end Sys2Proof.Machine
end

