-- ==== Sys2Proof/Machine/Reset.lean ====
section
/-! DEFINITION. Warm resets and recovery (R340, R363, R483-R489, R592, R788). -/

namespace Sys2Proof.Machine

/-! ## Requests (R772) -/

/-- WRST_N: a low level of at least 1 µs requests a warm reset; one shorter than 100 ns does not; between, either (log 1). -/
def execWrstN (lowNs : Nat) (s : State) : Host.Outcome State Fault Refusal :=
  let ask (s : State) : State := s.modPower fun p => { p with wrstReq := some (p.wrstReq.getD 0) }
  if !s.dev.bootok || s.dev.pstate == psOff || s.pins.thermtrip || decide (lowNs < 100) then done s
  else if 1000 ≤ lowNs then done (ask s)
  else done (if s.free % 2 = 0 then ask s.used else s.used)

/-! ## The reset (R483, R484) -/

/-- An engine after a warm reset: Barn and Stook stay (R340), the Winograd stage is enabled (R315), everything under way is gone. -/
def Engine.reset (e : Engine) : Engine :=
  { fenced := e.fenced, retired := e.retired, islandOff := e.islandOff, testing := e.testing, readmit := e.readmit, barn := e.barn, stook := e.stook, fg := e.fg, bg := e.bg }

/-- A pair after a warm reset: it is DOWN until joining completes again (R788); what was last recorded of the endpoint stays. -/
def Peer.reset (p : Peer) : Peer :=
  { down := p.down || p.present || p.joined, bepoch := p.bepoch, lgen := p.lgen }

/-- The engines, the Tally, the Reeve, the windows and the fabric (R483). Where the engines were unpowered they are powered again,
cleared (R341). -/
def State.resetLogic (s : State) : State :=
  let on := s.enginesOn
  let s := if on then forEach (List.range 24) (fun n s => s.cutTile n fun _ => true) s else s.powerDown
  { s with
    engines := (s.engines.map fun p => (p.1, p.2.reset)).filter fun p => decide (p.2 ≠ {})
    slices := (s.slices.map fun p => (p.1, { p.2 with misses := [], waiting := [] })).filter fun p => decide (p.2 ≠ {})
    windows := (s.windows.map fun p => (p.1, { p.2 with st := .closed, closer := none })).filter fun p => decide (p.2 ≠ {})
    slots := [], runs := [], admitting := 0, ctxs := []
    queues := (s.queues.map fun p => (p.1, { p.2 with reason := 0, held := false, ovf := false })).filter fun p => decide (p.2 ≠ {}) }

/-- The Market and the Skouk link state (R788). -/
def State.resetMarket (s : State) : State :=
  let s := forEach (List.range 128) (fun ep s =>
    if ((s.peer ep).present || (s.peer ep).joined) && !(s.peer ep).down then s.bump 7 ep 2 1 else s) s
  let s := { s with
    peers := (s.peers.map fun p => (p.1, p.2.reset)).filter fun p => decide (p.2 ≠ {})
    sendTx := (s.sendTx.map fun p => (p.1, { p.2 with out := [] })).filter fun p => decide (p.2 ≠ {})
    market := {} }
  let s := forEach (List.range 16) (fun st s => s.modStream st fun x => { x with partialBytes := [], retry := [], evtTime := none }) s
  let s := s.modDev fun d => { d with lgen := if d.lgen + 1 = 0 then 1 else d.lgen + 1 }
  forEach (List.range 8) (fun n s =>
    let p := s.port n
    let s := if p.rate != 0 || p.secured then s.setIrq irqLink else s
    s.setPort n { p with rate := 0, partner := none, secured := false, egress := [] }) s

/-- Words and units of the Hearth that a warm reset changes (R597, R717, R733, R735). The part is ACTIVE afterwards, or IDLE where it
was (log 35). -/
def State.resetHearth (s : State) : State :=
  let p := s.dev.pstate
  let s := if s.power.watchDue then s.setIrq irqWatch else s
  let s := s.modDev fun d => { d with
    service := false, halted := false, rdone := false, pstate := if p == psIdle then psIdle else psActive }
  let s := s.modBell fun b => { b with injTarget := 0, injUnit := 0, injBits := false, injCount := 0, injLeft := 0, injArmed := false, inReset := true, seen := [] }
  let s := s.modPower fun w => { w with
    wrstReq := none, recovering := true, throttledOnce := false, lowPower := false, wakeLatched := false, lateReq := none, watchDue := false
    request := if p == psEntering then some w.entering else w.request }
  let s := s.modSec fun c => { c with reeveHalted := false }
  let s := if s.sec.busy then (s.modSec fun c => { c with opening := none, attestWait := false }).authEnd arOk else s
  let s := if (s.table 2).commit then s.tabActivate 2 else s
  let lost := s.bell.lostTables
  (forEach lost (fun i s => s.tabRestore i) s).modBell fun b => { b with lostTables := [] }

/-- WARM_RESET: the reset that WRST_N, `DEVCTL.WRST` or an exit from HALTED has asked for. -/
def execWarmReset (s : State) : Host.Outcome State Fault Refusal :=
  match s.power.wrstReq with
  | none => done s
  | some c =>
    if s.dev.pstate == psOff || s.pins.thermtrip || !s.dev.bootok then done s
    else
      let s := (s.record 0x0401 c s.usedEntries 0 0).closeSession 3
      done s.resetLogic.resetMarket.resetHearth

/-! ## Recovery (R485-R489) -/

/-- Step 1 for one entry: the copies are compared and repaired (R447, R448). -/
def State.checkEntry (s : State) (e : Nat) : State :=
  let bp := s.badP.contains e
  let bm := s.badM.contains e
  if bp && bm then s.loseEntry e
  else if bp then
    { (s.raise { source := 0x21 }) with ledger := Tab.set {} s.ledger e (Tab.get {} s.mirror e), badP := s.badP.erase e }
  else
    let t := if bm then s.raise { source := 0x21 } else s
    { t with mirror := Tab.set {} t.mirror e (Tab.get {} t.ledger e), badM := t.badM.erase e }

/-- The entries either copy lists. -/
def State.allEntries (s : State) : List Nat :=
  (s.ledger.map (·.1) ++ s.mirror.map (·.1) ++ s.badP ++ s.badM).eraseDups

/-- Steps 1 of R485; the reports that the reset held are handled as it ends (R592). -/
def State.recover1 (s : State) : State :=
  (forEach s.allEntries (fun e s => s.checkEntry e) s).modBell (fun b => { b with inReset := false }) |>.settle

/-- Step 3: a commit that had begun is applied again and completed. -/
def State.recover3 (s : State) : State :=
  forEach (s.ledger.map (·.1)) (fun e s =>
    let x := s.entry e
    if x.cmt then
      let l := match x.area with
        | some a => (s.area a.toNat).staged
        | none => (s.job e).staged
      (s.applyAll e l).finishCommit e l
    else s) s

/-- Step 4: progress whose count differs from DONEN is cleared. -/
def State.recover4 (s : State) : State :=
  forEach (s.ledger.map (·.1)) (fun e s =>
    match (s.entry e).area with
    | some a =>
      if (s.area a.toNat).mcnt == (s.entry e).donen.toNat then s
      else (s.setArea a.toNat { owner := (s.area a.toNat).owner }).writeEntry e fun x => { x with donen := 0 }
    | none => s) s

/-- Open again a window of a job's list, or leave it LOST where its engine is not admitted (R486). -/
def State.reopen (s : State) (e : Nat) (w : WinRec) : State :=
  let g := s.eng w.eng.val
  if g.fenced || g.retired || g.islandOff then s.modWindow w.eng.val w.win.val fun x => { x with lost := true }
  else
    let bs := s.wrecBytes w.eng.val w.win.val w.off.toNat w.len.toNat
    let s := s.openWindow (s.entry e).queue w
    match w.wrec with
    | some a => s.fabricWrite clsControl a.toNat bs
    | none => s

/-- Step 5. -/
def State.recover5 (s : State) : State :=
  forEach (s.jobs.map (·.1)) (fun e s => forEach (s.job e).windows (fun w s => s.reopen e w) s) s

/-- Post what is COMMITTED, in order, while the ring has room. -/
def State.postAll : Nat → State → Nat → State
  | 0, s, _ => s
  | n + 1, s, q =>
    match s.postable q with
    | some e => if (s.queue q).room then postAll n (s.post e) q else s
    | none => s

/-- The completion record that a POSTED job's place in the ring holds. -/
def State.postedRecord (s : State) (e : Nat) : List Byte :=
  let q := s.queue (s.entry e).queue.toNat
  s.bytes (q.cbase.toNat + 32 * (((s.job e).recIdx.getD 0).toNat % 2 ^ q.lsize.toNat)) 32

/-- Step 6: completions are posted, and CPL frames not acknowledged are sent again (R477). -/
def State.recover6 (s : State) : State :=
  forEach (List.range 32) (fun q s =>
    let old := (s.queueEntries q).filter fun p => p.2.st == .posted && p.2.form && !p.2.cplack
    let s := forEach old (fun p s => s.sendCpl p.2 (s.postedRecord p.1)) s
    State.postAll (s.queueEntries q).length s q) s

/-- Put an entry into a list that is ordered by job number. -/
def insertJob (x : Nat × Entry) : List (Nat × Entry) → List (Nat × Entry)
  | [] => [x]
  | y :: l => if jseqBefore x.2.jseq y.2.jseq then x :: y :: l else y :: insertJob x l

/-- Entries of a queue that are ACCEPTED or RUNNING, in the order of their job numbers. -/
def State.jobOrder (s : State) (q : Nat) : List (Nat × Entry) :=
  ((s.queueEntries q).filter fun p => p.2.st == .accepted || p.2.st == .running).foldl (fun l x => insertJob x l) []

/-- Step 7 for one entry: the slot of a command that had one, under the next epoch (R272), and what the Reeve knew of it. -/
def State.rebuild (s : State) (e : Nat) : State :=
  let x := s.entry e
  if x.st == .running && x.cepoch != 0 then
    let p := s.planOf e
    let gr := (p.d? roGenrec).map fun t => t.addr
    let s := s.setRun e {
      phase := .tiled, order := s.passSeq, tcount := p.tcount, reads := s.readsOf p, adapts := s.adaptsOf p
      genrec := if p.cmd.op == opOptim then gr else none, foot := p.footprint, aper := s.aperOf p }
    let s := { s with passSeq := s.passSeq + 1 }
    match s.freeSlot with
    | some i => s.setSlotUp e i (match x.area with
        | some a => a.toNat
        | none => s.freeArea.getD 0) (epochNext x.cepoch)
    | none => s
  else s

/-- Step 2 for a command that has no slot: it takes its interlocks again, unless one derived before holds them. An OPTIM had passed its check
where the job record holds its generation slots (R180). -/
def State.rehold (s : State) (e : Nat) : State :=
  let x := s.entry e
  let p := (s.loadCtx e).p
  if x.st == .running && x.cepoch == 0 && tiledOp p.cmd.op then
    let ad := s.adaptsOf p
    let rd := s.readsOf p
    let clash := s.runs.any fun r => r.2.adapts.any (fun a => ad.contains a || rd.contains a) || r.2.reads.any fun a => ad.contains a
    s.setRun e { reads := if clash then [] else rd, adapts := if clash then [] else ad
                 genrec := if p.cmd.op == opOptim && (s.job e).gens != (0, 0) then (p.d? roGenrec).map fun t => t.addr else none }
  else s

/-- Steps 2, 7 and 8: slots and interlocks, then REPLAYED and REPLAYS of every job that goes on. -/
def State.recover78 (s : State) : State :=
  let s := forEach (List.range 32) (fun q s => forEach (s.jobOrder q) (fun p s => s.rebuild p.1) s) s
  let s := forEach (List.range 32) (fun q s => forEach (s.jobOrder q) (fun p s => s.rehold p.1) s) s
  forEach s.liveEntries (fun p s => s.writeEntry p.1 fun x => { x with
    replayed := true, replays := if x.replays = 255 then 255 else x.replays + 1 }) s

/-- `QHEAD` moves past the greatest ring index of a job of the queue (R460). -/
def State.recoverHead (s : State) (q : Nat) : State :=
  forEach (s.queueEntries q) (fun p s =>
    match (s.job p.1).ringIdx with
    | some i =>
      let d := (i + 1 - (s.queue q).head).toNat
      if 0 < d ∧ d < 32768 then s.modQueue q fun x => { x with head := i + 1 } else s
    | none => s) s

/-- Every period that PIDX has reached and that has not been posted is submitted (R542). -/
def State.resubmit (s : State) (st : Nat) : State :=
  let r := s.streamRec st
  if !r.en || r.period = 0 || (s.boundQueue st).isNone then s
  else
    let i := s.ringIdx r
    let from_ := i.2 / r.period
    forEach (List.range (min (2 ^ r.lnslot) (i.1 / r.period - from_))) (fun k s => s.trigger st (from_ + k)) s

/-- Step 9: recovery is over, and admission reopens. The recovery time is open (log 1). -/
def State.recover9 (s : State) (lost : Nat) : State :=
  let s := forEach (List.range 32) (fun q s => s.recoverHead q) s
  let s := (s.modDev fun d => { d with rdone := true }).modPower fun p => { p with recovering := false }
  let s := (s.setIrq irqRecov).used.record 0x0402 s.free lost 0 0
  let s := forEach (List.range 32) (fun q s => s.readRing q) s
  forEach (List.range 16) (fun st s => s.resubmit st) s

/-- The exit from HALTED that waited for the reset goes on, or ends LATCHED where DRAM_CHAN came during the reset (R582). -/
def State.exitGoesOn (s : State) (chan : Bool) : State :=
  match s.bell.exit with
  | some x =>
    if !x.waitReset then s
    else if chan then
      (s.modBell fun b => { b with exit := none, fstate := .latched }).record 0x0203 0x1A s.bell.count.toNat 0 0
    else s.startTests x
  | none => s

/-- RECOVERY. -/
def execRecovery (s : State) : Host.Outcome State Fault Refusal :=
  if !s.power.recovering || !s.dramUp then done s
  else
    let s := s.modDev fun d => { d with wrst := false }
    let chan := s.bell.heldReports.any fun r => r.source.val == 0x1A
    let before := s.dev.lost.toNat
    let s := s.recover1
    let lost := s.dev.lost.toNat - before
    done ((s.recover3.recover4.recover5.recover6.recover78.recover9 lost).exitGoesOn chan)

end Sys2Proof.Machine
end

