-- ==== Sys2Proof/Machine/Tap.lean ====
section
/-! DEFINITION. The TAP: its instructions under the debug state, and boundary scan (R713, R714). -/

namespace Sys2Proof.Machine

/-- The debug state admits an instruction: TRACE and REGRD in OPEN-TRACE and OPEN-FULL, MEMACC, HALT and SCANDUMP in OPEN-FULL. -/
def State.tapAdmits (s : State) (ir : Nat) : Bool :=
  if ir = 0x20 ∨ ir = 0x21 then s.sec.debug != 0
  else if ir = 0x30 ∨ ir = 0x31 ∨ ir = 0x32 then s.sec.debug == 2
  else [0x00, 0x01, 0x02, 0x03, 0x04, 0x10, 0x11].contains ir

/-- The instruction that acts: a locked or reserved one acts as BYPASS. -/
def State.tapActs (s : State) (ir : Byte) : Nat := if s.tapAdmits ir.toNat then ir.toNat else 0xFF

/-- What a read through the TAP returned (log 4). -/
def State.tapRead (s : State) (v : Word) : State := s.modCtx .tap fun c => { c with rdata := v }

/-- EXTEST, CLAMP and HIGHZ give the pins to the boundary register. -/
def tapTakesPins (i : Nat) : Bool := i == 0x00 || i == 0x03 || i == 0x04

/-- SECBUF: a word of the security buffer. -/
def State.tapSecbuf (s : State) (scan : TapScan) : State :=
  match scan with
  | .readWord k => if k < 12288 then s.tapRead (BitVec.ofNat 32 (leNat (s.secBytes (4 * k) 4))) else s.tapRead 0
  | .writeWord k v =>
    if k < 12288 ∧ s.sec.lc ≠ 0xF then s.modSec fun x => { x with secbuf := Mem.setBytes 0 x.secbuf (4 * k) (leBytes 4 v.toNat) } else s
  | _ => s

/-- AUTHREG: `AUTHCTL` and `AUTHSTAT`, at indices 0x39 and 0x3A. -/
def State.tapAuth (s : State) (scan : TapScan) : State :=
  match scan with
  | .readWord k =>
    if k = 0x3A then s.tapRead (s.wordValue .tap 0x3A) else s.tapRead 0
  | .writeWord k v => if k = 0x39 ∧ s.canWrite .tap 0x39 = true then s.writeWord .tap 0x39 v else s
  | _ => s

/-- REGRD: words 0x00 to 0x3F, and counters by the address `TBLADDR` would take, from 0x40 up (log 37). -/
def State.tapReg (s : State) (scan : TapScan) : State :=
  match scan with
  | .readWord k =>
    if k < 64 then s.readVia .tap k
    else
      let r := s.readCtr .tap (k - 64)
      r.2.tapRead r.1
  | _ => s

/-- MEMACC: a word at a byte address of the map of R41 (log 37): DRAM, a Barn by its aperture, flash (R710). No write reaches a verified
region (R702); of flash only the user areas, under the inhibit of R643. -/
def State.tapMem (s : State) (scan : TapScan) : State :=
  let up := s.dramUp
  match scan with
  | .readWord k =>
    if !up then s
    else
      match inAperture (4 * k) 4 with
      | some (e, o) => s.tapRead (BitVec.ofNat 32 (leNat ((List.range 4).map fun i => (s.eng e).barn.byte (o + i))))
      | none => (s.readBy 3 (4 * k) 4).tapRead (BitVec.ofNat 32 (leNat (s.memBytes (4 * k) 4)))
  | .writeWord k v =>
    let a := 4 * k
    let bs := leBytes 4 v.toNat
    if !up then s
    else if inDram a 4 then (if s.inVerified a 4 then s else s.fabricWrite 3 a bs)
    else
      match inAperture a 4 with
      | some (e, o) => s.modEng e fun x => { x with barn := x.barn.put o bs }
      | none =>
        if inFlash a 4 && inUser (a - flashBase) 4 && !s.nvBlocked then
          (s.modSec fun c => { c with user := Mem.setBytes 0xFF c.user (a - flashBase) bs }).dropLines a 4
        else s
  | _ => s

/-- TRACE and SCANDUMP read what the spec does not lay out: the word shifted out is open (log 1). -/
def State.tapOpen (s : State) (scan : TapScan) : State :=
  match scan with
  | .readWord _ => (s.tapRead (BitVec.ofNat 32 s.free)).used
  | _ => s

/-- The effect of an instruction's data scan. -/
def State.tapScan (s : State) (i : Nat) (scan : TapScan) : State :=
  if i = 0x00 ∨ i = 0x01 ∨ i = 0x03 ∨ i = 0x04 then
    match scan with
    | .boundary cells => if i = 0x00 ∨ i = 0x01 then s.modSec fun c => { c with bcells := cells } else s
    | _ => s
  else if i = 0x02 then s.tapRead 0x16C244B5
  else if i = 0x10 then s.tapSecbuf scan
  else if i = 0x11 then s.tapAuth scan
  else if i = 0x20 ∨ i = 0x32 then s.tapOpen scan
  else if i = 0x21 then s.tapReg scan
  else if i = 0x30 then s.tapMem scan
  else if i = 0x31 then
    match scan with
    | .haltReeve on =>
      let s := s.modSec fun c => { c with reeveHalted := on }
      if on then s else forEach (List.range 32) (fun q s => s.readRing q) s.runHeld
    | _ => s
  else s

/-- TAP_INSTRUCTION. The TAP works in every power state but OFF. One step of the halted Reeve runs vendor firmware, which the spec
does not give. -/
def execTapInstruction (ir : Byte) (scan : TapScan) (s : State) : Host.Outcome State Fault Refusal :=
  if s.dev.pstate == psOff then done s
  else
    let i := s.tapActs ir
    if i = 0x31 ∧ scan = .stepReeve ∧ s.sec.reeveHalted = true then .refused .reeveFirmwareStep
    else done ((s.modSec fun c => { c with tapIr := ir, bscan := tapTakesPins i }).tapScan i scan)

/-- TRST_N: the TAP resets; its instruction is IDCODE again and the pins return to the device. -/
def execTrstN (s : State) : Host.Outcome State Fault Refusal :=
  done (if s.dev.pstate == psOff then s else s.modSec fun c => { c with tapIr := 0x02, bscan := false })

end Sys2Proof.Machine
end

