-- ==== Sys2Proof/Machine/Dispatch.lean ====
section
/-! DEFINITION. One arm per command: its meaning, or a refusal by name. -/

namespace Sys2Proof.Machine

/-- The effect of a command on everything but the queue. -/
def exec (i : Instr) (s : State) : Host.Outcome State Fault Refusal :=
  match i with
  | .nop e => Sys2Proof.Machine.execNop e s
  | .gemm e => Sys2Proof.Machine.execGemm e s
  | .conv e => Sys2Proof.Machine.execConv e s
  | .dwconv e => Sys2Proof.Machine.execDwconv e s
  | .pool e => Sys2Proof.Machine.execPool e s
  | .boxpool e => Sys2Proof.Machine.execBoxpool e s
  | .eltw e => Sys2Proof.Machine.execEltw e s
  | .reduce e => Sys2Proof.Machine.execReduce e s
  | .lut e => Sys2Proof.Machine.execLut e s
  | .copy e => Sys2Proof.Machine.execCopy e s
  | .send e => Sys2Proof.Machine.execSend e s
  | .optim e => Sys2Proof.Machine.execOptim e s
  | .stats e => Sys2Proof.Machine.execStats e s
  | .loadb e => Sys2Proof.Machine.execLoadb e s
  | .signal e => Sys2Proof.Machine.execSignal e s
  | .wait e => Sys2Proof.Machine.execWait e s
  | .wopen e => Sys2Proof.Machine.execWopen e s
  | .wclose e => Sys2Proof.Machine.execWclose e s
  | .scrub e => Sys2Proof.Machine.execScrub e s
  | .codebook e => Sys2Proof.Machine.execCodebook e s
  | .endList e => Sys2Proof.Machine.execEndList e s
  | .barrierWaitEnd e => Sys2Proof.Machine.execBarrierWaitEnd e s
  | .loaderWaitEnd e => Sys2Proof.Machine.execLoaderWaitEnd e s
  | .waitTimeout e => Sys2Proof.Machine.execWaitTimeout e s
  | .tallySlotAssign => Sys2Proof.Machine.execTallySlotAssign s
  | .commandCommit e => Sys2Proof.Machine.execCommandCommit e s
  | .completionPost q => Sys2Proof.Machine.execCompletionPost q s
  | .available eng => Sys2Proof.Machine.execAvailable eng s
  | .tallyClaim eng => Sys2Proof.Machine.execTallyClaim eng s
  | .grant eng => Sys2Proof.Machine.execGrant eng s
  | .loadEnd eng => Sys2Proof.Machine.execLoadEnd eng s
  | .computeEnd eng => Sys2Proof.Machine.execComputeEnd eng s
  | .drainEnd eng => Sys2Proof.Machine.execDrainEnd eng s
  | .tallyDone eng => Sys2Proof.Machine.execTallyDone eng s
  | .depositFold slot => Sys2Proof.Machine.execDepositFold slot s
  | .restamp eng slot => Sys2Proof.Machine.execRestamp eng slot s
  | .restampAnswer eng slot => Sys2Proof.Machine.execRestampAnswer eng slot s
  | .eprioRaise slot => Sys2Proof.Machine.execEprioRaise slot s
  | .readDataArrival eng sectors badTries => Sys2Proof.Machine.execReadDataArrival eng sectors badTries s
  | .writeAck eng sectors => Sys2Proof.Machine.execWriteAck eng sectors s
  | .fencedAnswer eng isWrite sectors => Sys2Proof.Machine.execFencedAnswer eng isWrite sectors s
  | .granaryAccess addr cls acc => Sys2Proof.Machine.execGranaryAccess addr cls acc s
  | .granaryFill addr badReads => Sys2Proof.Machine.execGranaryFill addr badReads s
  | .blockExpand eng base x len => Sys2Proof.Machine.execBlockExpand eng base x len s
  | .windowWrite w => Sys2Proof.Machine.execWindowWrite w s
  | .windowClosed eng win => Sys2Proof.Machine.execWindowClosed eng win s
  | .scrubEngine eng => Sys2Proof.Machine.execScrubEngine eng s
  | .barnScrubber eng => Sys2Proof.Machine.execBarnScrubber eng s
  | .submit f => Sys2Proof.Machine.execSubmit f s
  | .qtailWrite a => Sys2Proof.Machine.execQtailWrite a s
  | .ringRetry q => Sys2Proof.Machine.execRingRetry q s
  | .qcheadWrite a => Sys2Proof.Machine.execQcheadWrite a s
  | .qcfgWrite a => Sys2Proof.Machine.execQcfgWrite a s
  | .rreg f => Sys2Proof.Machine.execRreg f s
  | .wreg f => Sys2Proof.Machine.execWreg f s
  | .rmem f => Sys2Proof.Machine.execRmem f s
  | .wmem f => Sys2Proof.Machine.execWmem f s
  | .wwin f => Sys2Proof.Machine.execWwin f s
  | .sendFrameReceive f => Sys2Proof.Machine.execSendFrameReceive f s
  | .wack f => Sys2Proof.Machine.execWack f s
  | .wnak f => Sys2Proof.Machine.execWnak f s
  | .sendRangeRetry dev ssn => Sys2Proof.Machine.execSendRangeRetry dev ssn s
  | .ack f => Sys2Proof.Machine.execAck f s
  | .ackTimer ep => Sys2Proof.Machine.execAckTimer ep s
  | .resendTimeout ep => Sys2Proof.Machine.execResendTimeout ep s
  | .join f => Sys2Proof.Machine.execJoin f s
  | .hello f => Sys2Proof.Machine.execHello f s
  | .helloSend => Sys2Proof.Machine.execHelloSend s
  | .peerLost dev => Sys2Proof.Machine.execPeerLost dev s
  | .stream fr => Sys2Proof.Machine.execStream fr s
  | .aafFrame fr => Sys2Proof.Machine.execAafFrame fr s
  | .triggeredSubmitRetry st => Sys2Proof.Machine.execTriggeredSubmitRetry st s
  | .frameReceive fr => Sys2Proof.Machine.execFrameReceive fr s
  | .gateStateChange port => Sys2Proof.Machine.execGateStateChange port s
  | .linkUp port partnerRates => Sys2Proof.Machine.execLinkUp port partnerRates s
  | .linkDown port => Sys2Proof.Machine.execLinkDown port s
  | .timeSync t grandmaster => Sys2Proof.Machine.execTimeSync t grandmaster s
  | .irqEventNotice => Sys2Proof.Machine.execIrqEventNotice s
  | .faultReport r => Sys2Proof.Machine.execFaultReport r s
  | .ploughTmo eng => Sys2Proof.Machine.execPloughTmo eng s
  | .escalationQuietExpiry source inst => Sys2Proof.Machine.execEscalationQuietExpiry source inst s
  | .quietTimerExpiry => Sys2Proof.Machine.execQuietTimerExpiry s
  | .engineSelfTestDone eng failStep => Sys2Proof.Machine.execEngineSelfTestDone eng failStep s
  | .sliceSelfTestDone slice passed => Sys2Proof.Machine.execSliceSelfTestDone slice passed s
  | .alertNMinLowExpiry => Sys2Proof.Machine.execAlertNMinLowExpiry s
  | .fltctlExit p => Sys2Proof.Machine.execFltctlExit p s
  | .fltinjWrite a => Sys2Proof.Machine.execFltinjWrite a s
  | .fltsumWrite a => Sys2Proof.Machine.execFltsumWrite a s
  | .engctlReadmit p reng => Sys2Proof.Machine.execEngctlReadmit p reng s
  | .engctlDis p mask => Sys2Proof.Machine.execEngctlDis p mask s
  | .pbRecordProgrammed => Sys2Proof.Machine.execPbRecordProgrammed s
  | .pbctlFlush p => Sys2Proof.Machine.execPbctlFlush p s
  | .pbctlClear p => Sys2Proof.Machine.execPbctlClear p s
  | .pbEraseDone => Sys2Proof.Machine.execPbEraseDone s
  | .pbcurWrite a => Sys2Proof.Machine.execPbcurWrite a s
  | .pbwin7Read p => Sys2Proof.Machine.execPbwin7Read p s
  | .tbldataWrite a => Sys2Proof.Machine.execTbldataWrite a s
  | .tbldataRead p => Sys2Proof.Machine.execTbldataRead p s
  | .tblselCommit p sel => Sys2Proof.Machine.execTblselCommit p sel s
  | .tblselRevert p sel => Sys2Proof.Machine.execTblselRevert p sel s
  | .timeLoRead p => Sys2Proof.Machine.execTimeLoRead p s
  | .irqenWrite a => Sys2Proof.Machine.execIrqenWrite a s
  | .portcfgWrite a => Sys2Proof.Machine.execPortcfgWrite a s
  | .mbWriteHighHalf addr hi => Sys2Proof.Machine.execMbWriteHighHalf addr hi s
  | .mbReadLowHalf addr => Sys2Proof.Machine.execMbReadLowHalf addr s
  | .registerWrite w a => Sys2Proof.Machine.execRegisterWrite w a s
  | .devctlRun p on => Sys2Proof.Machine.execDevctlRun p on s
  | .devctlPsreq p v => Sys2Proof.Machine.execDevctlPsreq p v s
  | .devctlProfile p v => Sys2Proof.Machine.execDevctlProfile p v s
  | .devctlService p on => Sys2Proof.Machine.execDevctlService p on s
  | .devctlWrst p => Sys2Proof.Machine.execDevctlWrst p s
  | .wrstN lowNs => Sys2Proof.Machine.execWrstN lowNs s
  | .warmReset => Sys2Proof.Machine.execWarmReset s
  | .recovery => Sys2Proof.Machine.execRecovery s
  | .porstN bootsel devaddr => Sys2Proof.Machine.execPorstN bootsel devaddr s
  | .standbyEntry => Sys2Proof.Machine.execStandbyEntry s
  | .watchEntry => Sys2Proof.Machine.execWatchEntry s
  | .restoreStep => Sys2Proof.Machine.execRestoreStep s
  | .wakeIn highNs => Sys2Proof.Machine.execWakeIn highNs s
  | .wakeTimerExpiry => Sys2Proof.Machine.execWakeTimerExpiry s
  | .tc10Wake port => Sys2Proof.Machine.execTc10Wake port s
  | .railRemovalInWatch mask => Sys2Proof.Machine.execRailRemovalInWatch mask s
  | .railLost mask => Sys2Proof.Machine.execRailLost mask s
  | .pfailN lowNs => Sys2Proof.Machine.execPfailN lowNs s
  | .vauxPf => Sys2Proof.Machine.execVauxPf s
  | .vauxInh => Sys2Proof.Machine.execVauxInh s
  | .vauxOk => Sys2Proof.Machine.execVauxOk s
  | .hearthBrownout => Sys2Proof.Machine.execHearthBrownout s
  | .vhrtOk => Sys2Proof.Machine.execVhrtOk s
  | .powerEstimate avg10us avg1ms vinAmps => Sys2Proof.Machine.execPowerEstimate avg10us avg1ms vinAmps s
  | .thermalStep tj => Sys2Proof.Machine.execThermalStep tj s
  | .thermalDerate tj => Sys2Proof.Machine.execThermalDerate tj s
  | .thermtrip tj => Sys2Proof.Machine.execThermtrip tj s
  | .watchRun => Sys2Proof.Machine.execWatchRun s
  | .tdmFrame input slots => Sys2Proof.Machine.execTdmFrame input slots s
  | .tdmSyncLoss input => Sys2Proof.Machine.execTdmSyncLoss input s
  | .spiTransaction ctl bytes => Sys2Proof.Machine.execSpiTransaction ctl bytes s
  | .auxSpiTimeout ctl => Sys2Proof.Machine.execAuxSpiTimeout ctl s
  | .opsecsSave opsecs => Sys2Proof.Machine.execOpsecsSave opsecs s
  | .challenge p => Sys2Proof.Machine.execChallenge p s
  | .attest p => Sys2Proof.Machine.execAttest p s
  | .openDebug p => Sys2Proof.Machine.execOpenDebug p s
  | .closeDebug p => Sys2Proof.Machine.execCloseDebug p s
  | .lifecycle p => Sys2Proof.Machine.execLifecycle p s
  | .verify p => Sys2Proof.Machine.execVerify p s
  | .release p => Sys2Proof.Machine.execRelease p s
  | .rollfwd p => Sys2Proof.Machine.execRollfwd p s
  | .setcak p => Sys2Proof.Machine.execSetcak p s
  | .policy p => Sys2Proof.Machine.execPolicy p s
  | .bookclr p => Sys2Proof.Machine.execBookclr p s
  | .clrauthExpiry => Sys2Proof.Machine.execClrauthExpiry s
  | .update p => Sys2Proof.Machine.execUpdate p s
  | .store p => Sys2Proof.Machine.execStore p s
  | .porstNAsserted => Sys2Proof.Machine.execPorstNAsserted s
  | .pfailNRelease => Sys2Proof.Machine.execPfailNRelease s
  | .tapInstruction ir scan => Sys2Proof.Machine.execTapInstruction ir scan s
  | .trstN => Sys2Proof.Machine.execTrstN s

end Sys2Proof.Machine
end

