-- ==== Sys2Proof/Safety.lean ====
section
/-! DEFINITION. The conditions on a state in which statements about commands are made: what is legal of a state, and what keeps the end
of a command from adding effects of its own. -/

namespace Sys2Proof.Machine

/-- A memory in its canonical form: addresses strictly rising, no entry equal to what an unlisted address reads as (zero). -/
abbrev Memory.wf (m : Mem) : Prop := Tab.wf (0 : Byte) m = true

/-- Nothing waits for the end of a command: no report is held for the Bell, no exit from the fault state is under way, no OPEN waits
for tiles to end, and no held ring entry is to be tried again. The end of a command then adds nothing to its effect. -/
abbrev State.Quiet (s : State) : Prop :=
  s.bell.heldReports = [] ∧ s.bell.exit = none ∧ s.sec.opening = none ∧ s.dev.retryDue = false

/-- Both copies of every Ledger entry are good, no line of the Granary holds a wrong word, and no error injection is armed: durable writes (R446)
and reads (R365, R371) then do nothing else. -/
abbrev State.Healthy (s : State) : Prop :=
  s.badP = [] ∧ s.badM = [] ∧ s.bell.injArmed = false ∧ (s.slices.all fun x => x.2.bad.isEmpty) = true

/-- The Reeve works on jobs: recovery is complete, nothing is halted, DRAM is on (R485, R576, R652, R713). -/
abbrev State.Working (s : State) : Prop :=
  s.dev.halted = false ∧ s.power.recovering = false ∧ s.dev.rdone = true ∧ s.pins.thermtrip = false ∧ s.sec.reeveHalted = false ∧
    s.dev.bootok = true ∧ s.dev.pstate = psActive

/-- The Market and its ports are powered, in ACTIVE (R621). -/
abbrev State.NetActive (s : State) : Prop := s.dev.bootok = true ∧ s.pins.thermtrip = false ∧ s.dev.pstate = psActive

/-- The Parish Book takes a record without starting a flush: it is not full and holds fewer than 95 records (R603, R605, R608). -/
abbrev State.BookRoom (s : State) : Prop := s.book.full = false ∧ s.book.buf.length < 95

/-- The counters outside the Granary's group are as they were, and the same slices are enabled: accesses of memory alone change the others
(R365, R756). -/
abbrev State.SameCounts (s t : State) : Prop :=
  (∀ k, k < 65536 ∨ 98304 ≤ k → Tab.get 0 t.ctrs k = Tab.get 0 s.ctrs k) ∧ ∀ n, (t.slice n).disabled = (s.slice n).disabled

/-- The registers and units outside the Reeve, the Tally, memory, the Granary, the engines and the windows are as they were. -/
abbrev State.SameUnits (s t : State) : Prop :=
  t.dev = s.dev ∧ t.bell = s.bell ∧ t.book = s.book ∧ t.sec = s.sec ∧ t.power = s.power ∧ t.watch = s.watch ∧ t.pins = s.pins ∧
    t.ports = s.ports ∧ t.peers = s.peers ∧ t.tables = s.tables ∧ t.ctxs = s.ctxs ∧ t.tx = s.tx ∧ s.SameCounts t

/-- An engine's state with a message of the Tally behind those on their way to it (R38). -/
def Engine.told (e : Engine) (m : ToEngine) : Engine := { e with inq := e.inq ++ [m] }

/-- Engines are as they were, but that the Tally has signalled AVAILABLE to some (R261). -/
abbrev State.OnlySignalled (s t : State) : Prop := ∀ n, t.eng n = s.eng n ∨ t.eng n = (s.eng n).told .available

/-- Every engine but one is as it was. -/
abbrev State.OthersSame (s t : State) (n : Nat) : Prop := ∀ m, m ≠ n → t.eng m = s.eng m

/-- A lifecycle state of R705: BLANK, PROVISIONED, FIELD, RETURN or VOID. -/
abbrev State.LifecycleLegal (s : State) : Prop := s.sec.lc = 0x0 ∨ s.sec.lc = 0x3 ∨ s.sec.lc = 0x5 ∨ s.sec.lc = 0x9 ∨ s.sec.lc = 0xF

/-! ## The opcodes of a command list -/

/-- The commands that a Tally slot carries through the engines, with the OPCODE each row takes (R210, R249). -/
def tiledCommands (e : Fin 16384) : List (Instr × Nat) :=
  [(.gemm e, opGemm), (.conv e, opConv), (.dwconv e, opDwconv), (.pool e, opPool), (.boxpool e, opBoxpool), (.eltw e, opEltw),
   (.reduce e, opReduce), (.lut e, opLut), (.copy e, opCopy), (.send e, opSend), (.optim e, opOptim), (.stats e, opStats)]

/-- The opcode of the command at CIDX. -/
def State.opcodeAt (s : State) (e : Nat) : Nat := (cmdOf (s.cmdBytes e)).op

/-- The command at CIDX of an entry may begin (R190, R210, R242): the Reeve works, nothing else is under way, the job's turn has come, the
opcode is `op`, and the entry holds no slot, command area or part of a SCRUB. -/
abbrev State.CanBegin (s : State) (e : Fin 16384) (op : Nat) : Prop :=
  s.Quiet ∧ s.Healthy ∧ s.Working ∧ ((s.entry e.val).st = .accepted ∨ (s.entry e.val).st = .running) ∧ s.startsInOrder e.val = true ∧
    (s.run e.val).phase = .fresh ∧ (∀ n, n < 24 → ((s.eng n).scrubs.any fun p => p.1 == e) = false) ∧ s.opcodeAt e.val = op ∧ (s.entry e.val).area = none ∧ s.slotOf e.val = none ∧
    ((cmdOf (s.cmdBytes e.val)).barrier = false ∨ s.earlierDone e.val = true)

/-- Every loader check of the command at CIDX passes (R242). -/
abbrev State.Passes (s : State) (e : Fin 16384) : Prop := s.checkAll (s.loadCtx e.val) = .pass

/-- A tiled command has passed its loader check: its entry is RUNNING at the same command, and it waits for a Tally slot or holds one
(R242, R251, R449). No byte of DRAM, no queue word and no window has changed, and no engine but for a signal that tiles are available. -/
structure State.Started (s t : State) (e : Fin 16384) : Prop where
  running : (t.entry e.val).st = .running
  same : (t.entry e.val).cidx = (s.entry e.val).cidx
  slot : (t.run e.val).phase = .waitSlot ∨ ((t.entry e.val).slot.isSome = true ∧ (t.entry e.val).area.isSome = true)
  dram : t.dram = s.dram
  queues : t.queues = s.queues
  engines : s.OnlySignalled t
  windows : t.windows = s.windows
  units : s.SameUnits t

/-- The command at CIDX has committed (R468): CIDX names the next entry, NCMD has counted it, and the entry is RUNNING with no slot. Every
other entry keeps its primary copy. -/
structure State.Committed (s t : State) (e : Fin 16384) : Prop where
  running : (t.entry e.val).st = .running
  next : (t.entry e.val).cidx = (s.entry e.val).cidx + 1
  count : (t.entry e.val).ncmd = if (s.entry e.val).ncmd = 0xFFFF then 0xFFFF else (s.entry e.val).ncmd + 1
  free : (t.entry e.val).slot = none ∧ (t.entry e.val).area = none ∧ (t.entry e.val).cmt = false
  others : ∀ k, k ≠ e.val → t.entry k = s.entry k
  units : s.SameUnits t

/-! ## Tiles -/

/-- Every Stook entry of an engine has good parity and a good residue (R95, R116). -/
def State.CleanStook (s : State) (n : Nat) : Prop :=
  ∀ k, (Tab.get {} (s.eng n).stook k).parOk = true ∧ (Tab.get {} (s.eng n).stook k).resOk = true

/-- COMPUTE of a tile in that phase finds no fault, or has found none (R95, R116-R121). -/
def State.ComputesClean (s : State) (n : Nat) (c : Claim) : Prop :=
  s.liveClaim c = true →
    if c.computed = true then s.CleanStook n
    else
      let t := s.computeTile n c (s.planOf (s.slot c.slot).entry.val)
      t.bell = s.bell ∧ (t.eng n).hold = false ∧ t.CleanStook n

/-- A write of a tile has reached DRAM: the bits of its mask stand there, the others stay (R366, R388). -/
def State.putMerged (s : State) (w : WReq) : State := s.write w.fa (mergeBits (s.bytes w.fa w.data.length) w.data w.mask)

/-- The write that an acknowledgement of `k` sectors may be for; a window row of more is acknowledged by its last request (R354). -/
def WReq.ackFits (w : WReq) (k : Nat) : Bool := w.sectors == k || (w.win.isSome && k == 4 && decide (4 < w.sectors))

/-- Sectors have come for a tile in LOAD: PREAD counts them, the tile stays where it is, at most 256 credits are in use, and nothing is reported. -/
structure State.DeliveredTo (s t : State) (n k : Nat) : Prop where
  claims : (t.eng n).claims = (s.eng n).claims
  credits : (t.eng n).creditsUsed ≤ 256
  count : t.ctr 0 n 25 = s.ctr 0 n 25 + BitVec.ofNat 40 k
  barn : (t.eng n).barn = (s.eng n).barn
  others : s.OthersSame t n
  rest : t.bell = s.bell ∧ t.dram = s.dram ∧ t.slots = s.slots

/-- A write of a tile in DRAIN has been acknowledged: its credit is free, the tile stays in DRAIN, and nothing is reported. -/
structure State.AckedTo (s t : State) (n : Nat) : Prop where
  claims : ((t.eng n).claims.map fun c => { c with wrote := true }) = (s.eng n).claims.map fun c => { c with wrote := true }
  credits : (t.eng n).creditsUsed ≤ 256
  rest : t.bell = s.bell ∧ t.slots = s.slots ∧ t.queues = s.queues

/-- A tile that fails finally may return under the basic reaction table: it is open in its slot under the slot's EPOCH (R566, R570). -/
abbrev State.MayReturn (s : State) (n : Nat) (c : Claim) : Prop :=
  ((s.table 1).expert = false ∧ s.bell.profile = 0 ∧ s.bell.alertc = false ∧ s.bell.inReset = false) ∧ s.BookRoom ∧ s.liveClaim c = true ∧
    (s.slot c.slot).epoch = c.epoch ∧ c.slot < 64 ∧ ((s.eng n).claims.find? fun k => k.slot == c.slot && k.tile == c.tile) = some c ∧
    ((s.slot c.slot).opn.any fun k => k.eng.val == n && k.tile == c.tile) = true

/-- The tile is back in RET under the next EPOCH, its engine holds it no longer, and the job is REPLAYED (R266, R482, R570). -/
structure State.TileReturned (s t : State) (n : Nat) (c : Claim) : Prop where
  back : c.tile ∈ (t.slot c.slot).ret
  epoch : (t.slot c.slot).epoch = epochNext (s.slot c.slot).epoch
  gone : ∀ k ∈ (t.eng n).claims, ¬ (k.slot = c.slot ∧ k.tile = c.tile)
  replayed : (t.entry (s.slot c.slot).entry.val).replayed = true
  dram : t.dram = s.dram

/-! ## Frames -/

/-- A Skouk frame of a type arrives at a port of a powered Market that carries it, and passes steps 1 to 4 of R516. -/
abbrev State.Receives (s : State) (ty : Nat) (f : SkFrame) : Prop :=
  s.NetActive ∧ (s.port f.port.val).carries = true ∧ skLen f ≤ (s.port f.port.val).maxLen ∧ (s.skAdmits (typed ty f) false).1 = true

/-- A port whose link carries frames lets a frame of a traffic class leave at once: the gate of the class is open and none of the class waits (R504). -/
abbrev State.Opens (s : State) (n cls : Nat) : Prop :=
  (s.port n).carries = true ∧ (s.port n).gates.getLsbD cls = true ∧ ((s.port n).egress.any fun x => x.1 == cls) = false

/-- The same for the device's own frames, which have the class of `PORTCFG.PCP` (R513). -/
abbrev State.Sends (s : State) (n : Nat) : Prop := s.Opens n (bitsOf (s.port n).cfg.toNat 26 24)

/-- The frame is the next of its pair, of the recorded generation, and brings no acknowledgement; the pair is up and has room for an answer, and
nothing of it waits (R516 step 5, R517, R520). -/
abbrev State.InOrder (s : State) (f : SkFrame) : Prop :=
  (s.peer (epOf f.src)).joined = true ∧ (s.peer (epOf f.src)).bepoch = f.bepoch ∧ (s.peer (epOf f.src)).lgen = f.lgen ∧
    f.seq = (s.peer (epOf f.src)).exp ∧ bitOf f.flags.toNat 0 = false ∧ (s.peer (epOf f.src)).ackOwed < 15 ∧
    (s.peer (epOf f.src)).heldReqs = [] ∧ (s.peer (epOf f.src)).down = false ∧ (s.peer (epOf f.src)).waiting = [] ∧
    (s.peer (epOf f.src)).unacked.length < 64

/-- The frame has been taken, and one frame `fr` of a type has been sent to its endpoint (R517, R519): it is the pair's next, and
acknowledges what came. -/
structure State.Answered (s t : State) (f fr : SkFrame) (ty : Nat) : Prop where
  exp : (t.peer (epOf f.src)).exp = (s.peer (epOf f.src)).exp + 1
  sent : (t.peer (epOf f.src)).unacked = (s.peer (epOf f.src)).unacked ++ [fr]
  seq : fr.seq = (s.peer (epOf f.src)).nextSeq
  next : (t.peer (epOf f.src)).nextSeq = (s.peer (epOf f.src)).nextSeq + 1
  ack : fr.ack = (s.peer (epOf f.src)).exp + 1
  type : fr.ty.toNat = ty
  dst : fr.dst = epByte (epOf f.src)

/-- A good frame at an enabled port of a powered Market is directed to stream `st` by rule `i` of the classifier, without a filter, and the stream runs
with the record's source `kind` and no period (R506, R508, R537). -/
abbrev State.StreamTakes (s : State) (fr : EthFrame) (st i kind : Nat) : Prop :=
  s.NetActive ∧ (s.port fr.port.val).en = true ∧ (s.port fr.port.val).rate ≠ 0 ∧ fr.fcsOk = true ∧ fr.len ≤ (s.port fr.port.val).maxLen ∧
    bitOf (s.port fr.port.val).cfg.toNat 8 = false ∧ fr.etype ≠ 0x888E ∧ fr.etype ≠ 0x88F7 ∧ s.ruleOf fr = some i ∧
    64 ≤ s.clsByte (32 * i + 22) ∧ s.clsByte (32 * i + 20) = 2 ∧ s.clsByte (32 * i + 21) % 16 = st ∧ (s.stream st).stopped = false ∧
    (s.streamRec st).en = true ∧ (s.streamRec st).src = kind ∧ (s.streamRec st).period = 0

/-- The slot at PIDX of a stream has been filled with a 64-byte header that gives the length, and the payload, and PIDX has advanced (R538, R539);
no other byte of DRAM has changed. -/
def State.SlotFilled (s t : State) (st sid : Nat) (payload : List Byte) : Prop :=
  ∃ head : List Byte, head.length = 64 ∧ fld head 16 2 = payload.length % 65536 ∧ fld head 24 8 = sid % 2 ^ 64 ∧
    t.dram = ((s.write (s.slotAddr (s.streamRec st)) (head ++ payload)).write (s.streamRec st).ring
      (leBytes 8 ((s.ringIdx (s.streamRec st)).1 + 1))).dram

/-! ## Faults, power and security -/

/-- The reaction table is the basic-derived one of PROFILE 0 without ALERTC, the fault state is NORMAL and below its limit, and no warm reset holds
reports (R567, R581, R592). -/
abbrev State.BellCalm (s : State) : Prop :=
  (s.table 1).expert = false ∧ s.bell.profile = 0 ∧ s.bell.alertc = false ∧ s.bell.fstate = .normal ∧ s.bell.count ≠ s.bell.limit ∧
    s.bell.inReset = false ∧ s.power.inhibit = false

/-- No ring entry of a queue is held (R55). -/
abbrev State.NoHeld (s : State) : Prop := ∀ q, q < 32 → (s.queue q).held = false

/-- A path may start a security operation now, on a part that has booted, is not VOID and stands in ACTIVE (R688, R715, R719). -/
abbrev State.MayOperate (s : State) (p : Path) : Prop :=
  s.mayAuth p = true ∧ s.sec.busy = false ∧ s.sec.lc ≠ 0xF ∧ s.dev.pstate = psActive ∧ s.dev.bootok = true

/-- The state in which an operation runs: BUSY is set and LASTOP names it (R688). -/
def State.begun (s : State) (op : Nat) : State := s.modSec fun c => { c with busy := true, lastop := BitVec.ofNat 8 op }

/-- A failed token operation has ended: RESULT is that of one of the tests that failed, BUSY is clear, the nonce is used up, and neither the fuses, the
owner's data, the Book's clear authority nor DRAM has changed (R690, R693, R694). -/
structure State.TokenFailed (s t : State) (fails : List Nat) : Prop where
  result : ∃ r ∈ fails, t.sec.result = BitVec.ofNat 4 r
  busy : t.sec.busy = false
  nonce : t.sec.nonce = none
  fuses : t.sec.lc = s.sec.lc ∧ t.sec.svf = s.sec.svf ∧ t.sec.okh = s.sec.okh
  owner : t.sec.policy = s.sec.policy ∧ t.sec.cak = s.sec.cak ∧ t.sec.ownerKey = s.sec.ownerKey
  rest : t.sec.clrauth = s.sec.clrauth ∧ t.sec.debug = s.sec.debug ∧ t.dram = s.dram

end Sys2Proof.Machine
end

