-- ==== Sys2Proof/Certificates/Slice0/Obligations.lean ====
section
/-! DEFINITION. The statements for the provers, grouped by the families of commands. A statement about a command that completes gives the
next state as the state before it with the named parts changed, so that the equation is its frame too. -/

open Sys2Proof Sys2Proof.Machine

/-! ## The block -/

/-- One command is one whole step: a step takes the command at the front of the queue and runs it with the queue's rest. That an empty queue idles is the
model's choice (log 6). -/
def Obligations.StepRunsFrontCommand : Prop :=
  (∀ (c : Instr) (rest : List Instr) (s : State), s.pending = c :: rest → step s = exec c { s with pending := rest }) ∧
  ∀ s : State, s.pending = [] → step s = .next s

/-- R705, R706, R684, R673: whatever a step does, from any state, a legal lifecycle state stays legal and never goes back in the order BLANK,
PROVISIONED, FIELD, RETURN, VOID; the anti-rollback count never falls, and rises only to the SVN of the booted image; a device secret stays written; and the command leaves the commands
behind it as they were. -/
def Obligations.LifeNeverGoesBack : Prop :=
  ∀ s s' : State, s.LifecycleLegal → step s = .next s' →
    s'.LifecycleLegal ∧ s.sec.lc.toNat ≤ s'.sec.lc.toNat ∧
    (s'.sec.svf = s.sec.svf ∨ s.sec.svf < s'.sec.svf ∧ s'.sec.svf = s.dev.bootSvn.toNat) ∧
    (s.sec.dsWritten = true → s'.sec.dsWritten = true) ∧ s'.pending = s.pending.tail

/-- State.reset: a part that left Craern is PROVISIONED (R705), its reset PSTATE reads BOOTING, nothing waits, no engine is fenced,
every window is closed, every Ledger entry is FREE, and its DRAM is in canonical form.
R735, R737, R745, R747, R750: what the words of the register file read at reset through the management bus, where the spec gives a reset
value: no interrupt is pending or enabled, every queue has a ring of 16 entries and a quota of 512, no fault is summed up, P0 alone is
enabled, and every wake source of `WATCHCTL` is. -/
def Obligations.ResetState : Prop :=
  (State.reset.LifecycleLegal ∧ State.reset.sec.lc = 0x3 ∧ State.reset.dev.pstate = psBooting ∧ State.reset.pending = [] ∧
   Memory.wf State.reset.dram ∧ State.reset.Quiet ∧ State.reset.Healthy ∧
   (∀ n, (State.reset.eng n).fenced = false) ∧ (∀ e w, (State.reset.window e w).st = .closed) ∧ (∀ e, (State.reset.entry e).st = .free)) ∧
  State.reset.wordValue .bus 0x06 = 0 ∧ State.reset.wordValue .bus 0x07 = 0 ∧
  (∀ q, (State.reset.queue q).lsize = 4 ∧ (State.reset.queue q).quota = 512 ∧ (State.reset.queue q).en = false) ∧
  State.reset.wordValue .bus 0x1A = 0 ∧ State.reset.bell.quiet = 3 ∧ State.reset.bell.limit = 8 ∧ State.reset.bell.autoexit = true ∧
  (State.reset.port 0).en = true ∧ (∀ n, 0 < n → n < 8 → (State.reset.port n).en = false) ∧ State.reset.power.wakeen = 0x1F ∧
  State.reset.dev.sktype = 0x88B5

/-! ## The opcodes of a command list -/

/-- R242, R249, R251: a command whose every loader check passes is RUNNING, and a tiled one then waits for a Tally slot or holds one; nothing
of DRAM, the queues or the windows changes, and no engine but for the signal that tiles are available. For all twelve tiled opcodes. -/
def Obligations.TiledCommandStarts : Prop :=
  ∀ (e : Fin 16384) (c : Instr) (op : Nat) (s : State), (c, op) ∈ tiledCommands e → s.CanBegin e op → s.Passes e →
    ∃ t, exec c s = .next t ∧ s.Started t e

/-- R251, R249, R255, R261, R382: the first command that waits takes a free Tally slot and a free command area: the slot holds the entry, its queue and
its CIDX, NEXT 0 and nothing returned, and EPRIO at the queue's priority; it holds the command's transfer program; engines may be signalled that
tiles are available. That the slot's EPOCH goes on from its last command's, when the assignment happens and which descriptors the program has are the
model's choices (logs 97, 21, 18). -/
def Obligations.SlotIsAssigned : Prop :=
  ∀ (s : State) (e i a : Nat), s.Quiet → s.Healthy → s.Working → s.nextWaiter = some e → e < 16384 → s.freeSlot = some i → s.freeArea = some a →
    (s.area a).bitmap = [] →
    ∃ t, exec .tallySlotAssign s = .next t ∧ (t.slot i).used = true ∧ (t.slot i).entry.val = e ∧ (t.slot i).queue = (s.entry e).queue ∧
      (t.slot i).cidx = (s.entry e).cidx ∧ (t.slot i).nextT = 0 ∧ (t.slot i).ret = [] ∧ (t.slot i).epoch = epochNext (s.slot i).epoch ∧
      (t.slot i).eprio = (s.queue (s.entry e).queue.toNat).prio.toNat ∧
      (t.slot i).prog = (s.program (s.planOf e) (s.run e).aper).1 ++ (s.program (s.planOf e) (s.run e).aper).2 ∧
      (t.area a).owner = some e ∧ (t.entry e).cepoch = epochNext (s.slot i).epoch ∧
      (∀ j, j ≠ i → t.slot j = s.slot j) ∧ (∀ k, k ≠ e → t.entry k = s.entry k) ∧ t.dram = s.dram ∧ s.OnlySignalled t ∧
      t.queues = s.queues ∧ s.SameUnits t

/-- R210, R468, R469: a NOP whose checks pass commits; DRAM, the queue words, the engines and the windows stay as they were.
R468: a NOP, SIGNAL or LOADB whose work is finished commits at COMMAND_COMMIT. -/
def Obligations.NopCommits : Prop :=
  (∀ (e : Fin 16384) (s : State), s.CanBegin e opNop → s.Passes e →
     ∃ t, exec (.nop e) s = .next t ∧ s.Committed t e ∧ t.dram = s.dram ∧ t.queues = s.queues ∧ t.engines = s.engines ∧ t.windows = s.windows) ∧
  ∀ (e : Fin 16384) (s : State), s.Quiet → s.Healthy → s.Working → (s.entry e.val).st = .running → (s.run e.val).phase = .finished →
    (s.opcodeAt e.val = opNop ∨ s.opcodeAt e.val = opSignal ∨ s.opcodeAt e.val = opLoadb) → (s.entry e.val).area = none →
    s.slotOf e.val = none →
    ∃ t, exec (.commandCommit e) s = .next t ∧ s.Committed t e ∧ t.dram = s.dram

/-- R192: END ends the job: its entry becomes COMMITTED at the same CIDX, with its STATUS and NCMD as they were; other entries, DRAM, queue
words, engines and windows stay as they were. -/
def Obligations.EndEndsTheJob : Prop :=
  ∀ (e : Fin 16384) (s : State), s.CanBegin e opEnd → s.Passes e →
    ∃ t, exec (.endList e) s = .next t ∧ (t.entry e.val).st = .committed ∧ (t.entry e.val).cidx = (s.entry e.val).cidx ∧
      (t.entry e.val).status = (s.entry e.val).status ∧ (t.entry e.val).ncmd = (s.entry e.val).ncmd ∧
      (∀ k, k ≠ e.val → t.entry k = s.entry k) ∧ t.dram = s.dram ∧ t.queues = s.queues ∧ t.engines = s.engines ∧ t.windows = s.windows ∧
      s.SameUnits t

/-- R238: SIGNAL adds VALUE to the counter of its own queue, and commits; no other queue word changes, and no byte of DRAM.
R236, R235: LOADB writes COUNT words from memory into the base slots of its queue from FIRST up, and commits; it stores nothing to DRAM. -/
def Obligations.SignalAndLoadb : Prop :=
  (∀ (e : Fin 16384) (s : State), s.CanBegin e opSignal → s.Passes e →
     let c := cmdOf (s.cmdBytes e.val)
     let q := (s.entry e.val).queue.toNat
     ∃ t, exec (.signal e) s = .next t ∧ s.Committed t e ∧ t.dram = s.dram ∧ t.engines = s.engines ∧ t.windows = s.windows ∧
       t.queues = (s.modQueue q fun x => { x with
         sc := Tab.set 0 x.sc (BitVec.ofNat 2 (c.im 40)).toNat (Tab.get 0 x.sc (c.im 40) + BitVec.ofNat 32 (c.im 44 4)) }).queues) ∧
  ∀ (e : Fin 16384) (s : State), s.CanBegin e opLoadb → s.Passes e →
    let c := cmdOf (s.cmdBytes e.val)
    let vals := (List.range (c.im 41)).map fun i => BitVec.ofNat 32 (leNat (s.memBytes (c.im 42 6 + 4 * i) 4))
    ∃ t, exec (.loadb e) s = .next t ∧ s.Committed t e ∧ t.dram = s.dram ∧ t.engines = s.engines ∧ t.windows = s.windows ∧
      t.queues = (s.modQueue (s.entry e.val).queue.toNat fun x => { x with
        bslots := ((List.range vals.length).zip vals).foldl (fun b v => Tab.set 0 b (c.im 40 + v.1) v.2) x.bslots }).queues

/-- R239: a WAIT whose counter has reached THRESH commits; one whose counter has not is RUNNING at the same command and waits. Neither stores to
DRAM or changes a queue word.
R241: a WAIT that has waited longer than its TIMEOUT completes with status TIMEOUT, where no earlier command of the job has failed: STATUS and
FIDX name it, and without CONT the job ends. It stores nothing to DRAM. -/
def Obligations.WaitWaitsOrTimesOut : Prop :=
  (∀ (e : Fin 16384) (s : State), s.CanBegin e opWait → s.Passes e →
     ∃ t, exec (.wait e) s = .next t ∧ t.dram = s.dram ∧ t.queues = s.queues ∧ t.engines = s.engines ∧ t.windows = s.windows ∧
       (if s.waitMet (cmdOf (s.cmdBytes e.val)) then s.Committed t e
        else (t.entry e.val).st = .running ∧ (t.entry e.val).cidx = (s.entry e.val).cidx ∧ (t.run e.val).phase = .acting)) ∧
  ∀ (e : Fin 16384) (s : State), s.Quiet → s.Healthy → s.Working → (s.run e.val).phase = .acting → s.opcodeAt e.val = opWait →
    (cmdOf (s.cmdBytes e.val)).im 48 4 ≠ 0 → s.waitMet (cmdOf (s.cmdBytes e.val)) = false → (s.entry e.val).status = 0 →
    s.slotOf e.val = none → s.cmdCont e.val = false →
    ∃ t, exec (.waitTimeout e) s = .next t ∧ (t.entry e.val).status = BitVec.ofNat 8 stTimeout ∧ (t.entry e.val).fidx = (s.entry e.val).cidx ∧
      (t.entry e.val).st = .committed ∧ (∀ k, k ≠ e.val → t.entry k = s.entry k) ∧ t.dram = s.dram ∧ t.queues = s.queues ∧ t.windows = s.windows ∧ s.SameUnits t

/-- R350: WOPEN opens the window with the ranges and masks of the command, the next WEPOCH and its queue as owner, and writes WREC where the
command has one; it commits. No other window, no queue word and no other byte of DRAM changes. -/
def Obligations.WopenOpensTheWindow : Prop :=
  ∀ (e : Fin 16384) (s : State), s.CanBegin e opWopen → s.Passes e →
    let c := cmdOf (s.cmdBytes e.val)
    ∃ t w, exec (.wopen e) s = .next t ∧ s.Committed t e ∧ t.queues = s.queues ∧ t.engines = s.engines ∧
      w = t.window (c.im 40 % 24) (c.im 41 % 8) ∧ w.st = .opn ∧ w.off = BitVec.ofNat 23 (c.im 44 4) ∧ w.len = BitVec.ofNat 23 (c.im 48 4) ∧
      w.engmask = BitVec.ofNat 24 (c.im 52 3) ∧ w.devmask = BitVec.ofNat 64 (c.im 56 8) ∧
      w.wepoch = epochNext (s.window (c.im 40 % 24) (c.im 41 % 8)).wepoch ∧ w.owner = (s.entry e.val).queue ∧ w.lost = false ∧
      (∀ n k, n < 24 → k < 8 → (n, k) ≠ (c.im 40 % 24, c.im 41 % 8) → t.window n k = s.window n k) ∧
      t.dram = (match (s.loadCtx e.val).p.d? roWrec with
        | some r => (s.write (BitVec.ofNat 48 r.addr).toNat (s.wrecBytes (c.im 40) (c.im 41) (c.im 44 4) (c.im 48 4))).dram
        | none => s.dram)

/-- R359, R389: WCLOSE makes its window CLOSING and waits for the copy home: the command is RUNNING and acting. No DRAM and no other window changes, and
of the engines only the credits that the copy holds, within the engine's 256.
R343: a SCRUB of Barns or Stooks gives each engine of its mask its part, behind the parts it has; the command is acting until the last part is done.
One that names none commits. With GRANARY no line of the Granary stays present. -/
def Obligations.WcloseAndScrubBegin : Prop :=
  (∀ (e : Fin 16384) (s : State), s.CanBegin e opWclose → s.Passes e →
     let c := cmdOf (s.cmdBytes e.val)
     ∃ t k, exec (.wclose e) s = .next t ∧ (t.window (c.im 40) (c.im 41)).st = .closing ∧ (t.window (c.im 40) (c.im 41)).closer = some e ∧
       (t.entry e.val).st = .running ∧ (t.run e.val).phase = .acting ∧ t.dram = s.dram ∧ t.queues = s.queues ∧ s.OthersSame t (c.im 40) ∧
       t.eng (c.im 40) = { s.eng (c.im 40) with copyOut := (s.eng (c.im 40)).copyOut + k } ∧
       ((s.eng (c.im 40)).creditsUsed ≤ 256 → (t.eng (c.im 40)).creditsUsed ≤ 256) ∧
       t.windows = (s.modWindow (c.im 40) (c.im 41) fun w => { w with st := .closing, closer := some e }).windows) ∧
  ∀ (e : Fin 16384) (s : State), s.CanBegin e opScrub → s.Passes e →
    let c := cmdOf (s.cmdBytes e.val)
    ∃ t, exec (.scrub e) s = .next t ∧ (t.entry e.val).st = .running ∧ t.dram = s.dram ∧ t.queues = s.queues ∧ t.windows = s.windows ∧
      (bitOf (c.im 43) 2 = true → ∀ i k, Tab.get none (t.slice i).tags k = none) ∧
      (c.im 43 % 4 ≠ 0 → (∃ n, n < 24 ∧ bitOf (c.im 40 3) n = true) →
        (t.run e.val).phase = .acting ∧ (t.entry e.val).cidx = (s.entry e.val).cidx ∧
        (∀ n, n < 24 → bitOf (c.im 40 3) n = true →
          t.eng n = { s.eng n with scrubs := (s.eng n).scrubs ++ [(e, bitOf (c.im 43) 0, bitOf (c.im 43) 1)] }) ∧
        ∀ n, n < 24 → bitOf (c.im 40 3) n = false → t.eng n = s.eng n) ∧
      (c.im 43 % 4 = 0 ∨ (∀ n, n < 24 → bitOf (c.im 40 3) n = false) →
        (t.entry e.val).cidx = (s.entry e.val).cidx + 1 ∧ (∀ k, k ≠ e.val → t.entry k = s.entry k) ∧ t.engines = s.engines)

/-- R423, R424: CODEBOOK for a stream with two empty slots, with no slot of any stream RETIRING and an object whose ECRC is right, makes its
generation CURRENT in the first of them, and commits; it stores nothing to DRAM and changes no queue word. -/
def Obligations.CodebookBecomesCurrent : Prop :=
  ∀ (e : Fin 16384) (s : State), s.CanBegin e opCodebook → s.Passes e →
    let c := cmdOf (s.cmdBytes e.val)
    let a := ((s.loadCtx e.val).p.d roCbook).addr
    let st := c.im 40 % 16
    (∀ i, i < 16 → (s.cbSlot i 0).st ≠ .retiring ∧ (s.cbSlot i 1).st ≠ .retiring) → (s.cbSlot st 0).st = .empty → (s.cbSlot st 1).st = .empty →
    s.cbCrcOk a (s.cbEcrc a) = true →
    ∃ t, exec (.codebook e) s = .next t ∧ s.Committed t e ∧ (t.cbSlot st 0).st = .current ∧ (t.cbSlot st 0).gen = BitVec.ofNat 16 (c.im 42 2) ∧
      (t.cbSlot st 0).ecrc = BitVec.ofNat 32 (s.cbEcrc a) ∧ (t.cbSlot st 1).st = .empty ∧ t.dram = s.dram ∧ t.queues = s.queues

/-- R190, R244: a command held by BARRIER, once the earlier jobs of its queue have reached COMMITTED, runs its loader check; one held at step 14
runs its checks again from step 5 once nothing holds it. A tiled command that passes has then started. -/
def Obligations.HeldCommandsStart : Prop :=
  ∀ (e : Fin 16384) (s : State), s.Quiet → s.Healthy → s.Working →
    ((s.entry e.val).st = .accepted ∨ (s.entry e.val).st = .running) → tiledOp (s.opcodeAt e.val) = true →
    ((s.run e.val).phase = .barrier → s.earlierDone e.val = true → s.Passes e →
      ∃ t, exec (.barrierWaitEnd e) s = .next t ∧ s.Started t e) ∧
    ((s.run e.val).phase = .wait14 → s.checkFrom5 (s.loadCtx e.val) = .pass →
      ∃ t, exec (.loaderWaitEnd e) s = .next t ∧ s.Started t e)

/-- R245, R248, R191: a command that is the first of its job to fail, and fails a loader check, completes with that check's status, step and
descriptor; without CONT the job ends there. No other entry, no byte of DRAM, no queue word and no window changes. For all twenty-one opcodes. -/
def Obligations.FailedCheckEndsTheJob : Prop :=
  ∀ (e : Fin 16384) (c : Instr) (op : Nat) (s : State) (status step ddesc cause : Nat),
    (c, op) ∈ tiledCommands e ++ [(.nop e, opNop), (.loadb e, opLoadb), (.signal e, opSignal), (.wait e, opWait), (.wopen e, opWopen),
      (.wclose e, opWclose), (.scrub e, opScrub), (.codebook e, opCodebook), (.endList e, opEnd)] →
    s.CanBegin e op → s.checkAll (s.loadCtx e.val) = .fail status step ddesc cause →
    (s.entry e.val).status = 0 → s.cmdCont e.val = false → s.BookRoom →
    ∃ t, exec c s = .next t ∧ (t.entry e.val).st = .committed ∧ (t.entry e.val).status = BitVec.ofNat 8 status ∧
      (t.entry e.val).dstep = BitVec.ofNat 8 step ∧ (t.entry e.val).ddesc = BitVec.ofNat 8 ddesc ∧
      (t.entry e.val).fidx = (s.entry e.val).cidx ∧ (∀ k, k ≠ e.val → t.entry k = s.entry k) ∧
      t.dram = s.dram ∧ t.queues = s.queues ∧ t.windows = s.windows

/-- R475, R58, R742, R247: the next COMMITTED job of a queue whose completion ring has room, submitted through the ring, is POSTED: its 32-byte
record stands at the place of QCTAIL, QCTAIL has advanced, and IRQSTAT.CPL is set. No other byte of DRAM changes. -/
def Obligations.CompletionIsPosted : Prop :=
  ∀ (q : Fin 32) (e : Nat) (s : State), s.Quiet → s.Healthy → s.Working → s.postable q.val = some e → (s.queue q.val).room = true →
    (s.entry e).queue.toNat = q.val → (s.entry e).form = false → (s.entry e).cplack = false →
    ∃ t, exec (.completionPost q) s = .next t ∧ (t.entry e).st = .posted ∧ t.queues = (s.modQueue q.val fun x => { x with ctail := x.ctail + 1 }).queues ∧
      t.dev.irqstat = s.dev.irqstat ||| irqCpl ∧
      t.dram = (s.write ((s.queue q.val).cbase.toNat + 32 * ((s.queue q.val).ctail.toNat % 2 ^ (s.queue q.val).lsize.toNat))
        (s.complRecord (s.entry e) (s.reeveTime).1)).dram ∧ t.windows = s.windows ∧ t.engines = s.engines

/-! ## The Tally and the engines -/

/-- R261, R256: AVAILABLE makes an engine without a tile, which may claim and has no claim under way, send one; an engine that holds a tile claims
when its tile goes on. Nothing else changes.
R274: 64 µs without service raise EPRIO of a slot with tiles to hand out by one, up to 3, and TAGE counts it. -/
def Obligations.AvailableAndAging : Prop :=
  (∀ (n : Fin 24) (s : State) (rest : List ToEngine), s.Quiet → s.dev.halted = false → (s.eng n.val).inq = .available :: rest →
     (s.mayClaim n.val = true → (s.eng n.val).claiming = false → (s.eng n.val).claims = [] →
       ∃ t, exec (.available n) s = .next t ∧
         t.eng n.val = { s.eng n.val with inq := rest, idle := false, claiming := true, outq := (s.eng n.val).outq ++ [.claim] } ∧
         s.OthersSame t n.val ∧ { t with engines := s.engines } = s) ∧
     ((s.eng n.val).claims ≠ [] → exec (.available n) s = .next (s.modEng n.val fun e => { e with inq := rest }))) ∧
  ∀ (i : Fin 64) (s : State), s.Quiet → (s.slot i.val).ready = true → (s.slot i.val).eprio < 3 →
    exec (.eprioRaise i) s = .next ((s.modSlot i.val fun sl => { sl with eprio := sl.eprio + 1 }).bump 1 0 2 1)

/-- R273: the slot a claim is served from has a tile to hand out, and no slot with a tile to hand out comes before it: none has a higher
EPRIO, and none with the same EPRIO an earlier SEQ. -/
def Obligations.ClaimsAreServedInOrder : Prop :=
  ∀ (s : State) (i : Nat), s.pickSlot = some i →
    (s.slot i).ready = true ∧ ∀ j, j < 64 → (s.slot j).ready = true →
      ¬ ((s.slot j).eprio > (s.slot i).eprio ∨ ((s.slot j).eprio = (s.slot i).eprio ∧ (s.slot j).seq < (s.slot i).seq))

/-- R257, R258, R259, R274: a claim that reaches the Tally is served from the first slot in order: the first tile of RET goes out before a new one, and a
new one is the lowest from NEXT up whose bitmap bit is clear; the claim is open under the slot's EPOCH, and EPRIO returns to PRIO. With nothing to
hand out the answer is NONE. No other slot and no other engine changes, and no byte of DRAM.
R262: a claim of an engine recorded as fenced has no answer. -/
def Obligations.TallyServesAClaim : Prop :=
  ∀ (n : Fin 24) (s : State) (rest : List ToTally), s.Quiet → (s.eng n.val).outq = .claim :: rest → s.dev.halted = false →
    ((s.eng n.val).fenced = true → exec (.tallyClaim n) s = .next (s.modEng n.val fun e => { e with outq := rest })) ∧
    ((s.eng n.val).fenced = false → s.pickSlot = none →
      ∃ u, exec (.tallyClaim n) s = .next u ∧ u.eng n.val = { (s.eng n.val).told (.grant none) with outq := rest } ∧
        s.OthersSame u n.val ∧ { u with engines := s.engines } = s) ∧
    ∀ i, (s.eng n.val).fenced = false → s.pickSlot = some i →
      (∀ t l, (s.slot i).ret = t :: l →
        ∃ u, exec (.tallyClaim n) s = .next u ∧ u.eng n.val = { (s.eng n.val).told (.grant (some ⟨i, t, (s.slot i).epoch⟩)) with outq := rest } ∧
          u.slot i = { s.slot i with ret := l, opn := (s.slot i).opn ++ [⟨n, t, (s.slot i).epoch⟩], eprio := (s.slot i).prio } ∧
          (∀ j, j ≠ i → u.slot j = s.slot j) ∧ s.OthersSame u n.val ∧ u.dram = s.dram ∧ u.ledger = s.ledger) ∧
      ((s.slot i).ret = [] →
        ∃ u t, exec (.tallyClaim n) s = .next u ∧ u.eng n.val = { (s.eng n.val).told (.grant (some ⟨i, t, (s.slot i).epoch⟩)) with outq := rest } ∧
          (s.slot i).nextT ≤ t ∧ t < (s.slot i).tcount ∧ t ∉ (s.slot i).doneTiles ∧
          (∀ x, (s.slot i).nextT ≤ x → x < t → x ∈ (s.slot i).doneTiles) ∧
          u.slot i = { s.slot i with nextT := t + 1, opn := (s.slot i).opn ++ [⟨n, t, (s.slot i).epoch⟩], eprio := (s.slot i).prio } ∧
          (∀ j, j ≠ i → u.slot j = s.slot j) ∧ s.OthersSame u n.val ∧ u.dram = s.dram ∧ u.ledger = s.ledger)

/-- R260, R261: a grant ends the claim. An engine without a tile at work begins LOAD of it, unless the tile is empty; one with a tile at work
keeps it claimed, with the other pending cell; the answer that there is no tile makes the engine wait for AVAILABLE. No slot of the Tally, no other
engine and no byte of DRAM changes. -/
def Obligations.GrantBeginsLoad : Prop :=
  ∀ (n : Fin 24) (s : State) (rest : List ToEngine), s.Quiet → s.Healthy → s.dev.halted = false →
    ((s.eng n.val).inq = .grant none :: rest →
      exec (.grant n) s = .next (s.modEng n.val fun e => { e with inq := rest, claiming := false, idle := true })) ∧
    ∀ g, (s.eng n.val).inq = .grant (some g) :: rest →
      ((s.eng n.val).claims = [] → (s.eng n.val).scrubs = [] → (s.dev.pstate = psActive ∨ s.dev.pstate = psEntering) →
        ¬ ((s.slot g.slot).used = true ∧ (s.slot g.slot).stopping = false ∧ (s.planOf (s.slot g.slot).entry.val).emptyTile g.tile = true) →
        ∃ t c, exec (.grant n) s = .next t ∧ (t.eng n.val).claims = [c] ∧ c.slot = g.slot ∧ c.tile = g.tile ∧ c.epoch = g.epoch ∧
          c.phase = .load ∧ c.cell = 0 ∧ (t.eng n.val).claiming = false ∧ (t.eng n.val).inq = rest ∧ t.slots = s.slots ∧ t.dram = s.dram ∧
          s.OthersSame t n.val) ∧
      (((s.eng n.val).claims.any fun c => c.phase != .claimed) = true →
        ∃ t c, exec (.grant n) s = .next t ∧ (t.eng n.val).claims = (s.eng n.val).claims ++ [c] ∧ c.slot = g.slot ∧ c.tile = g.tile ∧
          c.epoch = g.epoch ∧ c.phase = .claimed ∧ c.cell = (if (s.eng n.val).claims.any fun k => k.cell == 0 then 1 else 0) ∧
          (t.eng n.val).claiming = false ∧ (t.eng n.val).inq = rest ∧ t.slots = s.slots ∧ t.dram = s.dram ∧ s.OthersSame t n.val)

/-- R277, R388: with every row of the Mill delivered, the last reads return and LOAD ends: COMPUTE begins, and nothing of the tile is under way. No tile
of another phase, no slot, no queue word, no other engine and no byte of DRAM changes.
R277, R260, R119: COMPUTE ends and DRAIN begins, for an engine without a residue hold whose Barn has no bad word and whose COMPUTE finds no fault; no
slot, no queue word and no byte of DRAM changes.
R264, R277, R375: DRAIN of a tile under its slot's epoch ends once every write is acknowledged: DRAM holds them all, the deposit stands in the tile's
pending cell, and DONE goes to the Tally behind what the engine has sent it. No slot and no queue word changes. -/
def Obligations.TilePhasesAdvance : Prop :=
  (∀ (n : Fin 24) (s : State) (c : Claim), s.Quiet → s.Healthy → (s.eng n.val).inPhase .load = some c → c.failed = false → s.dev.halted = false →
     (s.eng n.val).rows = [] →
     ∃ t, exec (.loadEnd n) s = .next t ∧ t.dram = s.dram ∧ t.slots = s.slots ∧ t.queues = s.queues ∧ s.OthersSame t n.val ∧
       (t.eng n.val).claims = (s.eng n.val).claims.map (fun k => if k == c then { k with phase := .compute } else k) ∧
       (t.eng n.val).outs = [] ∧ (t.eng n.val).todo = [] ∧ (t.eng n.val).millOut = 0) ∧
  (∀ (n : Fin 24) (s : State) (c : Claim), s.Quiet → s.Healthy → (s.eng n.val).inPhase .compute = some c → c.failed = false → c.poisoned = false →
    s.dev.halted = false → (s.eng n.val).barn.bad = [] → (s.eng n.val).hold = false → s.ComputesClean n.val c →
    ∃ t, exec (.computeEnd n) s = .next t ∧ t.dram = s.dram ∧ t.slots = s.slots ∧ t.queues = s.queues ∧ t.ledger = s.ledger ∧
      ((t.eng n.val).claims.any fun k => k.slot == c.slot && k.tile == c.tile && k.epoch == c.epoch && k.phase == .drain) = true) ∧
  ∀ (n : Fin 24) (s : State) (c : Claim), s.Quiet → s.Healthy → (s.eng n.val).inPhase .drain = some c → c.failed = false → c.poisoned = false →
    s.dev.halted = false → s.sendsDue n.val c = false → (s.eng n.val).barn.bad = [] → s.liveClaim c = true → s.staleWrite c.slot c.epoch = false →
    (∀ w ∈ (s.eng n.val).wouts ++ (s.eng n.val).wtodo, w.win = none) →
    ∃ t l, exec (.drainEnd n) s = .next t ∧
      t.dram = (((s.eng n.val).wouts ++ (s.eng n.val).wtodo).foldl (fun u w => u.putMerged w) s).dram ∧
      (t.eng n.val).outq = (s.eng n.val).outq ++ .done ⟨c.slot, c.tile, c.epoch⟩ c.cell :: l ∧ t.slots = s.slots ∧ t.queues = s.queues ∧
      ((s.eng n.val).claims = [c] → (t.eng n.val).claims = [] ∧ t.cell (2 * n.val + c.cell) = (s.eng n.val).dep)

/-- R264, R267, R269, R375: the only tile of an engine, of a stale epoch or of a slot that is stopping, ends with its deposit and DONE, and writes
nothing. -/
def Obligations.StaleTileWritesNothing : Prop :=
  ∀ (n : Fin 24) (s : State) (c : Claim), s.Quiet → s.Healthy → (s.eng n.val).claims = [c] → c.phase = .drain → c.failed = false →
    c.poisoned = false → s.dev.halted = false → s.sendsDue n.val c = false → (s.eng n.val).barn.bad = [] →
    (s.staleWrite c.slot c.epoch = true ∧ (∀ w ∈ (s.eng n.val).wouts ++ (s.eng n.val).wtodo, w.win = none) ∨
      (s.slot c.slot).stopping = true ∧ (s.eng n.val).wouts = [] ∧ (s.eng n.val).wtodo = []) →
    ∃ t l, exec (.drainEnd n) s = .next t ∧ t.dram = s.dram ∧ t.slots = s.slots ∧ t.queues = s.queues ∧ t.windows = s.windows ∧
      t.cells = (s.setCell (2 * n.val + c.cell) (s.eng n.val).dep).cells ∧ (t.eng n.val).claims = [] ∧
      (t.eng n.val).outq = (s.eng n.val).outq ++ .done ⟨c.slot, c.tile, c.epoch⟩ c.cell :: l

/-- R265, R271, R464: the Tally accepts a DONE of an open claim under the slot's EPOCH: DONE counts it, its bitmap bit is set, the claim is closed and
one deposit of the tile waits behind the others; any other DONE is dropped and TSTALE counts it, with no slot changed (a stopping slot has no open
tile, R269). Neither changes a byte of DRAM. -/
def Obligations.TallyAcceptsDone : Prop :=
  ∀ (n : Fin 24) (s : State) (g : Grant) (cell : Nat) (rest : List ToTally), s.Quiet → (s.eng n.val).outq = .done g cell :: rest →
    (if (s.slot g.slot).used = true ∧ (s.slot g.slot).stopping = false ∧ (s.slot g.slot).epoch = g.epoch ∧
        ((s.slot g.slot).opn.any fun c => c.eng.val == n.val && c.tile == g.tile) = true then
      ∃ t d, exec (.tallyDone n) s = .next t ∧ (t.slot g.slot).done = (s.slot g.slot).done + 1 ∧
        (t.slot g.slot).doneTiles = g.tile :: (s.slot g.slot).doneTiles ∧
        (t.slot g.slot).opn = ((s.slot g.slot).opn.filter fun c => !(c.eng.val == n.val && c.tile == g.tile)) ∧
        (t.slot g.slot).foldq = (s.slot g.slot).foldq ++ [d] ∧ d.slot = g.slot ∧ d.tile = g.tile ∧ d.epoch = g.epoch ∧
        (∀ x, s.cell (2 * n.val + cell) = some x → x.slot = g.slot → x.tile = g.tile → x.epoch = g.epoch → d = x) ∧
        (t.slot g.slot).epoch = (s.slot g.slot).epoch ∧ (∀ j, j ≠ g.slot → t.slot j = s.slot j) ∧ t.dram = s.dram ∧ t.ctrs = s.ctrs ∧
        t.engines = (s.modEng n.val fun e => { e with outq := rest }).engines
     else exec (.tallyDone n) s = .next ((s.modEng n.val fun e => { e with outq := rest }).bump 1 0 0 1))

/-- R465, R466, R468: the oldest deposit not yet durable is folded into the command area, DONEN counts it, and the last one of the last tile
finishes the command's work. No other entry, no other slot and no byte of DRAM changes. -/
def Obligations.DepositIsFolded : Prop :=
  ∀ (i : Fin 64) (s : State) (d : Deposit) (rest : List Deposit) (a : BitVec 6), s.Quiet → s.Healthy → (s.slot i.val).foldq = d :: rest →
    (s.slot i.val).used = true → (s.slot i.val).stopping = false → s.dev.halted = false → s.sec.reeveHalted = false →
    (s.entry (s.slot i.val).entry.val).area = some a →
    ∃ t, exec (.depositFold i) s = .next t ∧ t.area a.toNat = (s.area a.toNat).fold d ∧ (t.area a.toNat).mcnt = (s.area a.toNat).mcnt + 1 ∧
      t.slot i.val = { s.slot i.val with foldq := rest } ∧
      (t.entry (s.slot i.val).entry.val).donen = (s.entry (s.slot i.val).entry.val).donen + 1 ∧
      ((s.slot i.val).done = (s.slot i.val).tcount → rest = [] → (t.run (s.slot i.val).entry.val).phase = .finished) ∧
      (∀ j, j ≠ i.val → t.slot j = s.slot j) ∧ (∀ k, k ≠ (s.slot i.val).entry.val → t.entry k = s.entry k) ∧ t.dram = s.dram ∧
      t.queues = s.queues ∧ s.SameUnits t

/-- R267, R269: an engine that handles a RESTAMP of a slot, the oldest message to it, keeps the tiles of the slot that have issued no write, under the new
epoch, and answers with them; of a slot that is stopping it discards every tile. With a tile at work that stays, it starts no other. -/
def Obligations.EngineHandlesRestamp : Prop :=
  ∀ (n : Fin 24) (i : Fin 64) (s : State) (ep : BitVec 16) (rest : List ToEngine), s.Quiet → s.Healthy → s.dev.halted = false →
    (s.eng n.val).inq = .restamp i.val ep :: rest →
    ((s.slot i.val).stopping = false → (s.eng n.val).claims ≠ [] →
      (∀ c ∈ (s.eng n.val).claims, c.slot = i.val ∧ c.wrote = false ∧ c.phase ≠ .claimed) →
      ∃ t, exec (.restamp n i) s = .next t ∧ (t.eng n.val).claims = (s.eng n.val).claims.map (fun c => { c with epoch := ep }) ∧
        (t.eng n.val).outq = (s.eng n.val).outq ++ [.answer i.val ep ((s.eng n.val).claims.map fun c => c.tile)] ∧
        (t.eng n.val).inq = rest ∧ t.slots = s.slots ∧ t.dram = s.dram ∧ s.OthersSame t n.val) ∧
    ((s.slot i.val).stopping = true → (∀ c ∈ (s.eng n.val).claims, c.slot = i.val) →
      ∃ t l, exec (.restamp n i) s = .next t ∧ (t.eng n.val).claims = [] ∧
        (t.eng n.val).outq = (s.eng n.val).outq ++ .answer i.val ep [] :: l ∧ (t.eng n.val).inq = rest ∧ t.slots = s.slots ∧ t.dram = s.dram ∧
        s.OthersSame t n.val)

/-- R268: the Tally takes an engine's answer: its open claims granted under an older epoch whose tiles it has not kept are closed and go back
into RET, and the job is REPLAYED (R482); engines may be signalled that tiles are available (R261). -/
def Obligations.TallyTakesRestampAnswer : Prop :=
  ∀ (n : Fin 24) (i : Fin 64) (s : State) (ep : BitVec 16) (kept : List Nat) (rest : List ToTally), s.Quiet → s.Healthy →
    (s.eng n.val).outq = .answer i.val ep kept :: rest → (s.slot i.val).used = true → (s.slot i.val).stopping = false →
    let gone := fun (c : OpenClaim) => c.eng.val == n.val && epochOlder c.stamp ep && !kept.contains c.tile
    let back := ((s.slot i.val).opn.filter gone).map fun c => c.tile
    ∃ t, exec (.restampAnswer n i) s = .next t ∧ (t.slot i.val).opn = ((s.slot i.val).opn.filter fun c => !gone c) ∧
      (t.slot i.val).ret = back.foldl insertRet (s.slot i.val).ret ∧ (t.slot i.val).epoch = (s.slot i.val).epoch ∧
      (back ≠ [] → (t.entry (s.slot i.val).entry.val).replayed = true) ∧ (∀ j, j ≠ i.val → t.slot j = s.slot j) ∧ t.dram = s.dram ∧
      (s.modEng n.val fun e => { e with outq := rest }).OnlySignalled t

/-! ## Transfers, the Granary, the Mill, windows and scrubs -/

/-- R21, R387, R388, R389, R394: a delivery without a CRC error to a tile in LOAD brings the bytes of its request, or sectors of the Mill; PREAD counts the
sectors, the tile stays in LOAD, nothing is reported, and no more than 256 credits come into use. Reads of a discarded tile complete into discard and
are counted. A fenced engine's port drops the reply (R31), and a delivery that nothing waits for changes nothing.
R366, R375, R388, R389, R354: an acknowledged write of a tile in DRAIN stands in DRAM, unless its epoch is stale, in which case the slice counts it and
drops it; an admitted one to a window stands in the window's Barn. No more than 256 credits come into use, and the next writes of the tile may be
issued. A stale write of a discarded tile is dropped too. -/
def Obligations.TransfersReturnCredits : Prop :=
  (∀ (n : Fin 24) (k : Fin 5) (s : State), s.Quiet → s.Healthy →
     ((s.eng n.val).fenced = true ∨ s.dev.halted = true ∨ k.val = 0 → ∀ b, exec (.readDataArrival n k b) s = .next s) ∧
     ((s.eng n.val).fenced = false → s.dev.halted = false → k.val ≠ 0 → (s.eng n.val).discOut ≠ 0 → ∀ b, exec (.readDataArrival n k b) s =
       .next ((s.modEng n.val fun e => { e with discOut := e.discOut - min k.val (s.eng n.val).discOut }).bump 0 n.val 28
         (min k.val (s.eng n.val).discOut))) ∧
     ∀ c, (s.eng n.val).fenced = false → s.dev.halted = false → k.val ≠ 0 → (s.eng n.val).discOut = 0 → (s.eng n.val).inPhase .load = some c →
       c.failed = false → (s.eng n.val).creditsUsed ≤ 256 →
       (∀ r, ((s.eng n.val).outs.find? fun r => r.sectors == k.val) = some r →
         ∃ t, exec (.readDataArrival n k 0) s = .next t ∧ s.DeliveredTo t n.val k.val ∧
           (s.liveClaim c = true → ∀ i, i < r.len →
             Tab.get none (t.eng n.val).buf (r.fa + i) = some ((s.reqBytes (s.planOf (s.slot c.slot).entry.val) r)[i]?.getD 0))) ∧
       (((s.eng n.val).outs.find? fun r => r.sectors == k.val) = none → k.val ≤ (s.eng n.val).millOut →
         ∃ t, exec (.readDataArrival n k 0) s = .next t ∧ s.DeliveredTo t n.val k.val) ∧
       (((s.eng n.val).outs.find? fun r => r.sectors == k.val) = none → (s.eng n.val).millOut < k.val → ∀ b,
         exec (.readDataArrival n k b) s = .next s)) ∧
  ∀ (n : Fin 24) (k : Fin 5) (s : State), s.Quiet → s.Healthy → (s.eng n.val).fenced = false → s.dev.halted = false →
    (∀ c w, ((s.eng n.val).late.find? fun x => x.1.ackFits k.val) = none → (s.eng n.val).inPhase .drain = some c →
      ((s.eng n.val).wouts.find? fun w => w.ackFits k.val) = some w → (s.eng n.val).barn.bad = [] → (s.eng n.val).creditsUsed ≤ 256 →
      (w.win = none → s.staleWrite c.slot c.epoch = false →
        ∃ t, exec (.writeAck n k) s = .next t ∧ s.AckedTo t n.val ∧ t.dram = (s.putMerged w).dram) ∧
      (w.win = none → s.staleWrite c.slot c.epoch = true →
        ∃ t, exec (.writeAck n k) s = .next t ∧ s.AckedTo t n.val ∧ t.dram = s.dram ∧
          t.ctr 2 (s.sliceFor w.fa) 4 = s.ctr 2 (s.sliceFor w.fa) 4 + 1) ∧
      (∀ g j wep, w.win = some (g, j, wep) → (s.eng g).fenced = false → s.staleWrite c.slot c.epoch = false →
        let off := (w.fa - aperBase) % 0x1000000
        let old := (List.range w.data.length).map fun i => (s.eng g).barn.byte (off + i)
        (s.window g j).admits wep ((s.window g j).engmask.getLsbD n.val) off w.data.length = true →
        ∃ t, exec (.writeAck n k) s = .next t ∧ s.AckedTo t n.val ∧ t.dram = s.dram ∧
          ∀ i, i < w.data.length → (t.eng g).barn.byte (off + i) = (mergeBits old w.data w.mask)[i]?.getD 0)) ∧
    (∀ x, ((s.eng n.val).late.find? fun x => x.1.ackFits k.val) = some x → x.1.win = none → s.staleWrite x.2.1 x.2.2 = true →
      ∃ t, exec (.writeAck n k) s = .next t ∧ t.eng n.val = { s.eng n.val with late := (s.eng n.val).late.erase x } ∧ s.OthersSame t n.val ∧
        t.dram = s.dram ∧ t.ctr 2 (s.sliceFor x.1.fa) 4 = s.ctr 2 (s.sliceFor x.1.fa) 4 + 1 ∧ t.slots = s.slots) ∧
    (((s.eng n.val).late.find? fun x => x.1.ackFits k.val) = none → ((s.eng n.val).wouts.find? fun w => w.ackFits k.val) = none →
      exec (.writeAck n k) s = .next s)

/-- R393, R390, R23: five failing deliveries of a read, and a FENCED answer to a read or a write, fail the tile finally: the request's credits return, its
claim is marked failed, and the Bell handles PORT_CRC or the fenced request's report, with the index of the descriptor, before the command ends.
R561, R566, R570, R266, R482: under the basic reaction table, before the fourth report of the engine, the tile returns: it stands in RET of its slot
under the next EPOCH, the engine holds it no longer, its job is REPLAYED, and no byte of DRAM changes. -/
def Obligations.RequestFailsFinally : Prop :=
  ∀ (n : Fin 24) (k : Fin 5) (s : State) (c : Claim), s.Healthy → (s.eng n.val).fenced = false → s.dev.halted = false →
    (∀ r, (s.eng n.val).inPhase .load = some c → ((s.eng n.val).outs.find? fun r => r.sectors == k.val) = some r →
      let u := s.modEng n.val fun e => { e with outs := e.outs.erase r }
      exec (.fencedAnswer n false k) s = .next (u.failTile n.val c.slot c.tile 0x0D r.desc).settle ∧
      (k.val ≠ 0 → (s.eng n.val).discOut = 0 →
        exec (.readDataArrival n k 5) s =
          .next (((s.bump 0 n.val 27 4).modEng n.val fun e => { e with outs := e.outs.erase r }).failTile n.val c.slot c.tile 0x05 r.desc).settle) ∧
      (s.Quiet → s.MayReturn n.val c →
        (Tab.get 0 s.bell.esc (0x0D * 256 + n.val) < 3 → ∃ t, exec (.fencedAnswer n false k) s = .next t ∧ s.TileReturned t n.val c) ∧
        (k.val ≠ 0 → (s.eng n.val).discOut = 0 → Tab.get 0 s.bell.esc (0x05 * 256 + n.val) < 3 →
          ∃ t, exec (.readDataArrival n k 5) s = .next t ∧ s.TileReturned t n.val c))) ∧
    ∀ w, (s.eng n.val).inPhase .drain = some c → ((s.eng n.val).wouts.find? fun w => w.sectors == k.val) = some w →
      exec (.fencedAnswer n true k) s =
        .next ((s.modEng n.val fun e => { e with wouts := e.wouts.erase w }).failTile n.val c.slot c.tile 0x0D w.desc).settle ∧
      (s.Quiet → s.MayReturn n.val c → Tab.get 0 s.bell.esc (0x0D * 256 + n.val) < 3 →
        ∃ t, exec (.fencedAnswer n true k) s = .next t ∧ s.TileReturned t n.val c)

/-- R366, R367, R368, R369: a read of a line that its slice holds, with good words, touches the line's place in its set and counts GHIT, and so does a
write of it; a read of a line that is absent takes one of the 64 outstanding misses, with its class, and counts GMISS, joins the miss of its
line, or waits for one. A part of an absent line that is written allocates nothing; a whole line written makes it present, where its class may allocate.
R369, R367: a fill whose DRAM read passes ends its miss and, where the class may allocate, makes its line present in its set. No other slice
and no byte of DRAM changes. -/
def Obligations.GranaryReadsAndFills : Prop :=
  (∀ (a : Addr) (cls : BitVec 2) (s : State), s.Quiet → s.Healthy → (inDram a.toNat 1 = true ∨ inFlash a.toNat 1 = true) →
     let sl := s.sliceFor a.toNat
     let line := a.toNat / 128
     (∀ w, (s.slice sl).wayOf (setOf a.toNat) line = some w →
       let t := (s.setSlice sl ((s.slice sl).hit (setOf a.toNat) w)).bump 2 sl 0 1
       exec (.granaryAccess a cls .read) s = .next t ∧ exec (.granaryAccess a cls .writePart) s = .next t ∧
         exec (.granaryAccess a cls .writeLine) s = .next t) ∧
     ((s.slice sl).wayOf (setOf a.toNat) line = none →
       (((s.slice sl).misses.any fun m => m.1 == line) = false → (s.slice sl).misses.length < 64 →
         exec (.granaryAccess a cls .read) s =
           .next ((s.modSlice sl fun x => { x with misses := x.misses ++ [(line, cls.toNat, 1)] }).bump 2 sl 1 1)) ∧
       (((s.slice sl).misses.any fun m => m.1 == line) = true →
         exec (.granaryAccess a cls .read) s =
           .next ((s.modSlice sl fun x => { x with
             misses := x.misses.map fun m => if m.1 == line then (m.1, m.2.1, m.2.2 + 1) else m }).bump 2 sl 2 1)) ∧
       (((s.slice sl).misses.any fun m => m.1 == line) = false → 64 ≤ (s.slice sl).misses.length →
         exec (.granaryAccess a cls .read) s = .next (s.modSlice sl fun x => { x with waiting := x.waiting ++ [(line, cls.toNat)] })) ∧
       exec (.granaryAccess a cls .writePart) s = .next s ∧
       (cls.toNat < 3 → ∃ t, exec (.granaryAccess a cls .writeLine) s = .next t ∧ ((t.slice sl).wayOf (setOf a.toNat) line).isSome = true ∧
         (∀ k, k ≠ sl → t.slice k = s.slice k) ∧ t.dram = s.dram))) ∧
  ∀ (a : Addr) (s : State) (m : Nat × Nat × Nat), s.Quiet → s.Healthy → ((s.slice (s.sliceFor a.toNat)).misses.find? fun m => m.1 == a.toNat / 128) = some m →
    ∃ t, exec (.granaryFill a 0) s = .next t ∧
      (m.2.1 < 3 → ((t.slice (s.sliceFor a.toNat)).wayOf (setOf a.toNat) (a.toNat / 128)).isSome = true) ∧
      (3 ≤ m.2.1 → (t.slice (s.sliceFor a.toNat)).tags = (s.slice (s.sliceFor a.toNat)).tags) ∧
      ((s.slice (s.sliceFor a.toNat)).waiting = [] →
        (t.slice (s.sliceFor a.toNat)).misses = (s.slice (s.sliceFor a.toNat)).misses.erase m) ∧
      (∀ k, k ≠ s.sliceFor a.toNat → t.slice k = s.slice k) ∧ t.dram = s.dram ∧ t.engines = s.engines

/-- R428, R429, R430: a row that lies in one block is expanded: its bytes of the image stand in the tile's buffers, and no row within it is waited for.
A block which the Mill still keeps is not read again: MREUSE and MOUTB count, and nothing else of the part changes. A good block whose codebook the
Mill holds is read: MBLK counts it, and the Mill keeps it, as the newest of four. -/
def Obligations.KeptBlockIsReused : Prop :=
  ∀ (n : Fin 24) (base : Addr) (x len : Word) (s : State) (c : Claim) (i : Nat), s.Quiet → s.Healthy → (s.eng n.val).fenced = false →
    s.dev.halted = false → (s.eng n.val).inPhase .load = some c → c.failed = false → s.liveClaim c = true →
    let p := s.planOf (s.slot c.slot).entry.val
    let a := base.toNat
    (p.ds.any fun t => t.zifer && t.addr == a && p.cmd.readsRole t.role && decide (x.toNat + len.toNat ≤ t.len)) = true →
    blocksOfRun x.toNat len.toNat = [i] →
    let role := ((p.ds.find? fun t => t.zifer && t.addr == a && p.cmd.readsRole t.role).getD p.x).role
    let at_ := bufAddr role x.toNat
    let expanded := fun (t : State) =>
      (∀ j, j < len.toNat → Tab.get none (t.eng n.val).buf (at_ + j) = some (s.imgByte (p.d role) (x.toNat + j))) ∧
      (∀ k ∈ (t.eng n.val).rows, k ∈ (s.eng n.val).rows ∧ ¬ (at_ ≤ k.fa ∧ k.fa + k.len ≤ at_ + len.toNat)) ∧
      (t.eng n.val).claims = (s.eng n.val).claims ∧ s.OthersSame t n.val ∧ t.dram = s.dram ∧
      t.ctr 0 n.val 32 = s.ctr 0 n.val 32 + BitVec.ofNat 40 len.toNat
    ((s.eng n.val).millKept.contains (a, i) = true →
      ∃ t, exec (.blockExpand n base x len) s = .next t ∧ expanded t ∧ t.ctr 0 n.val 30 = s.ctr 0 n.val 30 + 1 ∧
        { t with engines := s.engines, ctrs := s.ctrs } = s) ∧
    ((s.eng n.val).millKept.contains (a, i) = false →
      (s.eng n.val).millBooks.contains (BitVec.ofNat 4 (s.zhdr a).stream, BitVec.ofNat 16 (s.zhdr a).cgen) = true →
      s.blockCrcOk (s.blockAt a i) = true → s.blockMismatch a i ((s.cbAny (s.zhdr a).stream (s.zhdr a).cgen).getD {}) = false →
      ∃ t, exec (.blockExpand n base x len) s = .next t ∧ expanded t ∧ t.ctr 0 n.val 29 = s.ctr 0 n.val 29 + 1 ∧
        (t.eng n.val).millKept = ((a, i) :: (s.eng n.val).millKept).take 4)

/-- R354, R355, R357, R358, R348: a write that a window admits, with a current epoch, lands: every byte of it then reads in the Barn of the window's
engine, the bytes of that Barn outside it and other engines' Barns read as before, and no byte of DRAM changes. A write the window does not
admit is counted in WREFUSE and changes nothing else where its tile has gone; one of a stale epoch is counted in WSTALE. An
engine that has no such tile in DRAIN, and no write of one it has discarded under way, issues none (R278), and a fenced one's port drops it (R31). -/
def Obligations.WindowWriteLands : Prop :=
  ∀ (w : WinWrite) (s : State), s.Quiet → s.Healthy →
    ((s.eng w.srcEng.val).fenced = true ∨ (s.eng w.srcEng.val).writesFor w.slot.val w.epoch = false → exec (.windowWrite w) s = .next s) ∧
    ((s.eng w.srcEng.val).fenced = false → (s.eng w.srcEng.val).writesFor w.slot.val w.epoch = true → (s.eng w.dstEng.val).fenced = false →
    let x := s.window w.dstEng.val w.win.val
    let ok := x.admits w.wepoch (x.engmask.getLsbD w.srcEng.val) w.off.toNat w.data.length
    (ok = true → s.staleWrite w.slot.val w.epoch = false →
      ∃ t, exec (.windowWrite w) s = .next t ∧ t.dram = s.dram ∧ t.slots = s.slots ∧ t.windows = s.windows ∧
        (∀ i, i < w.data.length → (t.eng w.dstEng.val).barn.byte (w.off.toNat + i) = w.data[i]?.getD 0) ∧
        (∀ o, o < w.off.toNat ∨ w.off.toNat + w.data.length ≤ o → (t.eng w.dstEng.val).barn.byte o = (s.eng w.dstEng.val).barn.byte o) ∧
        (∀ m, m ≠ w.dstEng.val → (t.eng m).barn = (s.eng m).barn)) ∧
    (ok = false → (s.slot w.slot.val).used = false →
      exec (.windowWrite w) s = .next (s.bump 4 (8 * w.dstEng.val + w.win.val) 1 1)) ∧
    (ok = true → s.staleWrite w.slot.val w.epoch = true →
      exec (.windowWrite w) s = .next ((s.bump 4 (8 * w.dstEng.val + w.win.val) 2 1).markWrote w.srcEng.val w.slot.val w.epoch)))

/-- R359, R353: the end of a window's copy home: every byte of the window stands at its home, every other byte of DRAM reads as before, and the window
is CLOSED. The WCLOSE that closed it then commits, where its own entry does not lie in the home. -/
def Obligations.WindowIsCopiedHome : Prop :=
  ∀ (n : Fin 24) (w : Fin 8) (s : State), s.Quiet → s.Healthy → s.Working →
    (s.eng n.val).barn.bad = [] → (s.window n.val w.val).st = .closing → (s.window n.val w.val).len.toNat % 64 = 0 →
    let off := (s.window n.val w.val).off.toNat
    let len := (s.window n.val w.val).len.toNat
    (∀ e, (s.window n.val w.val).closer = some e → (s.entry e.val).st = .running ∧ s.opcodeAt e.val = opWclose ∧ (s.entry e.val).area = none ∧
      s.slotOf e.val = none ∧ (s.cmdAddr e.val + 64 ≤ winHome n.val off ∨ winHome n.val (off + len) ≤ s.cmdAddr e.val)) →
    ∃ t, exec (.windowClosed n w) s = .next t ∧ (t.window n.val w.val).st = .closed ∧
      (∀ i, i < len → t.byte (winHome n.val (off + i)) = (s.eng n.val).barn.byte (off + i)) ∧
      (∀ a, a < winHome n.val off ∨ winHome n.val (off + len) ≤ a → t.byte a = s.byte a) ∧
      (∀ e, (s.window n.val w.val).closer = some e → (t.entry e.val).st = .running ∧ (t.entry e.val).cidx = (s.entry e.val).cidx + 1)

/-- R343: an engine without a tile carries out the oldest part of a SCRUB that it has: its Stook is cleared where the part names it, and every Barn byte
outside its open windows reads zero where the part names the Barn. While another engine has its part, the SCRUB waits; with the last part done it
commits.
R347: the scrubber of an engine that is clocked and whose Barn has good check bits goes to the next line, after the last to the first, and BSCRUB
counts it; one whose clocks stand does nothing. -/
def Obligations.EngineScrubs : Prop :=
  (∀ (n : Fin 24) (e : Fin 16384) (barn stook : Bool) (rest : List (Fin 16384 × Bool × Bool)) (s : State), s.Quiet →
     (s.eng n.val).scrubs = (e, barn, stook) :: rest → (s.eng n.val).claims = [] → s.dev.halted = false →
     let cleared := fun (t : State) =>
       (stook = true → (t.eng n.val).stook = []) ∧
       (barn = true → ∀ o, o < barnSize → outOf (s.openRanges n.val) o = true → (t.eng n.val).barn.byte o = 0) ∧
       (stook = false → (t.eng n.val).stook = (s.eng n.val).stook) ∧ (barn = false → (t.eng n.val).barn = (s.eng n.val).barn) ∧
       t.dram = s.dram
     (∀ m : Fin 24, m ≠ n → ((s.eng m.val).scrubs.any fun p => p.1 == e) = true →
       ∃ t, exec (.scrubEngine n) s = .next t ∧ cleared t ∧ (t.eng n.val).scrubs = rest ∧ s.OthersSame t n.val ∧ t.ledger = s.ledger) ∧
     (s.Healthy → s.Working → (∀ k, k < 24 → k ≠ n.val → ((s.eng k).scrubs.any fun p => p.1 == e) = false) → (rest.any fun p => p.1 == e) = false →
       (s.entry e.val).st = .running → s.opcodeAt e.val = opScrub → (s.entry e.val).area = none → s.slotOf e.val = none →
       ∃ t, exec (.scrubEngine n) s = .next t ∧ cleared t ∧ (t.eng n.val).scrubs = rest ∧ (t.entry e.val).st = .running ∧
         (t.entry e.val).cidx = (s.entry e.val).cidx + 1)) ∧
  ∀ (n : Fin 24) (s : State), s.Quiet →
    (s.engineClocked n.val = false → exec (.barnScrubber n) s = .next s) ∧
    (s.engineClocked n.val = true → (s.eng n.val).barn.bad = [] →
      exec (.barnScrubber n) s =
        .next ((s.used.bump 0 n.val 24 1).modEng n.val fun g => { g with scrubPos := (g.scrubPos + 1) % 98304 }))

/-! ## Submission and the queue words -/

/-- R532, R533, R457, R451: a SUBMIT in order that admission accepts takes a FREE entry: it is ACCEPTED with the queue's job number, the list and tag of
the frame and the host as ORIGIN, the job number advances, and ACCEPT answers. One that admission refuses or finds a duplicate takes no entry:
REFUSE or ACCEPT answers; one that must come again later is answered by DEFER. R501: one of a device, at a port of another role or for a queue that the
part does not have is refused with AUTH. No byte of DRAM changes. -/
def Obligations.SubmitIsAnswered : Prop :=
  ∀ (f : SkFrame) (s : State), s.Quiet → s.Healthy → s.Receives tySubmit f → s.InOrder f → s.sec.reeveHalted = false →
    ((isHost (epOf f.src) = false ∨ ((s.port f.port.val).role ≠ 0 ∧ (s.port f.port.val).role ≠ 3) ∨ 31 < fld f.param 0 1) →
      ∃ t fr, exec (.submit f) s = .next t ∧ s.Answered t f fr tyRefuse ∧ fld fr.param 1 1 = raAuth ∧ t.ledger = s.ledger ∧
        t.queues = s.queues ∧ t.dram = s.dram) ∧
    (isHost (epOf f.src) = true → ((s.port f.port.val).role = 0 ∨ (s.port f.port.val).role = 3) → fld f.param 0 1 < 32 →
    let q := fld f.param 0 1
    let tag : Quad := BitVec.ofNat 64 (fld f.param 16 8)
    let v := s.admission q (some (BitVec.ofNat 6 (epOf f.src), true, tag))
    (v = .accept → (∃ k, k < 16384 ∧ (Tab.get {} s.ledger k).st = .free) →
      ∃ t fr e, exec (.submit f) s = .next t ∧ s.Answered t f fr tyAccept ∧ (Tab.get {} s.ledger e).st = .free ∧ (t.entry e).st = .accepted ∧
        (t.entry e).queue.toNat = q ∧ (t.entry e).jseq = (s.queue q).jseq ∧ (t.entry e).list = BitVec.ofNat 48 (fld f.param 8 6) ∧
        (t.entry e).tag = tag ∧ (t.entry e).originHost = true ∧ (∀ k, k ≠ e → t.entry k = s.entry k) ∧
        t.queues = (s.modQueue q fun x => { x with jseq := x.jseq + 1 }).queues ∧ t.dram = s.dram) ∧
    (∀ r, v = .refuse r → ∃ t fr, exec (.submit f) s = .next t ∧ s.Answered t f fr tyRefuse ∧ fld fr.param 1 1 = r % 256 ∧
      t.ledger = s.ledger ∧ t.queues = s.queues ∧ t.dram = s.dram) ∧
    (∀ r, v = .defer r → ∃ t fr, exec (.submit f) s = .next t ∧ s.Answered t f fr tyDefer ∧ fld fr.param 1 1 = r % 256 ∧
      t.ledger = s.ledger ∧ t.queues = s.queues ∧ t.dram = s.dram) ∧
    (∀ j, v = .dup j → ∃ t fr, exec (.submit f) s = .next t ∧ s.Answered t f fr tyAccept ∧ fld fr.param 4 4 = j.toNat ∧
      t.ledger = s.ledger ∧ t.queues = s.queues ∧ t.dram = s.dram))

/-- R55, R53, R186, R738: the one ring entry that was held is admitted when it is tried again: it becomes an ACCEPTED entry with the list and tag of its
16 bytes, QHEAD advances, and HELD and REASON clear. -/
def Obligations.HeldRingEntryIsAdmitted : Prop :=
  ∀ (q : Fin 32) (s : State), s.Quiet → s.Healthy → s.Working → (s.queue q.val).held = true → (s.queue q.val).en = true →
    (s.queue q.val).tail = (s.queue q.val).head + 1 → s.admission q.val none = .accept →
    (∃ k, k < 16384 ∧ (Tab.get {} s.ledger k).st = .free) →
    let bs := s.memBytes ((s.queue q.val).base.toNat + 16 * ((s.queue q.val).head.toNat % 2 ^ (s.queue q.val).lsize.toNat)) 16
    ∃ t e, exec (.ringRetry q) s = .next t ∧ (Tab.get {} s.ledger e).st = .free ∧ (t.entry e).st = .accepted ∧
      (t.entry e).list = BitVec.ofNat 48 (fld bs 0 6) ∧ (t.entry e).tag = BitVec.ofNat 64 (fld bs 8 8) ∧ (t.entry e).jseq = (s.queue q.val).jseq ∧
      (∀ k, k ≠ e → t.entry k = s.entry k) ∧
      t.queue q.val = { s.queue q.val with
        head := (s.queue q.val).head + 1, held := false, reason := 0, jseq := (s.queue q.val).jseq + 1 } ∧ t.dram = s.dram

/-- R741: a `QTAIL` write that would leave more than 2^LSIZE entries is ignored and sets OVF; an accepted one stores the tail and
clears OVF. A `QCHEAD` write that does not lie from the old `QCHEAD` to `QCTAIL` is ignored and sets OVF; an accepted one stores the count and clears
OVF. An ignored write changes nothing else, nor does an accepted `QTAIL` of a disabled queue or an accepted `QCHEAD` of a queue without a POSTED
entry; none changes a byte of DRAM. -/
def Obligations.QueueCountsAreWritten : Prop :=
  ∀ (p : Path) (v : Word) (s : State), s.Quiet → s.canWrite p 0x0F = true → s.canWrite p 0x12 = true →
    let q := (s.ctx p).qsel.toNat
    let x := s.queue q
    let n : Half := v.setWidth 16
    (2 ^ x.lsize.toNat < (n - x.head).toNat → exec (.qtailWrite (.word p v)) s = .next (s.setQueue q { x with ovf := true })) ∧
    ((n - x.head).toNat ≤ 2 ^ x.lsize.toNat → s.Healthy →
      ∃ t, exec (.qtailWrite (.word p v)) s = .next t ∧ (t.queue q).tail = n ∧ (t.queue q).ovf = false ∧ t.dram = s.dram ∧
        (x.en = false → t = s.setQueue q { x with tail := n, ovf := false })) ∧
    ((x.ctail - x.chead).toNat < (n - x.chead).toNat →
      exec (.qcheadWrite (.word p v)) s = .next (s.setQueue q { x with ovf := true })) ∧
    ((n - x.chead).toNat ≤ (x.ctail - x.chead).toNat → s.Healthy →
      ∃ t, exec (.qcheadWrite (.word p v)) s = .next t ∧ (t.queue q).chead = n ∧ (t.queue q).ovf = false ∧ t.dram = s.dram ∧
        ((∀ r ∈ s.queueEntries q, r.2.st ≠ .posted) → t = s.setQueue q { x with chead := n, ovf := false }))

/-- R737, R739: `QCFG` written with EN set for a disabled queue whose entries are all FREE takes every field, a LSIZE below 4 as 4 and a QUOTA above 16,384
as 16,384, and sets the four ring counts to 0 (SBIND clear). Written with EN clear for an enabled one, it leaves LSIZE, STREAM and SBIND as they were.
`QBASE_LO` written while the queue is enabled changes nothing. -/
def Obligations.QueueIsConfigured : Prop :=
  ∀ (p : Path) (v : Word) (s : State), s.Quiet → s.canWrite p 0x0D = true → s.canWrite p 0x0B = true →
    let q := (s.ctx p).qsel.toNat
    let x := s.queue q
    let n := v.toNat
    (x.en = false → s.depth q = 0 → bitOf n 7 = true → bitOf n 12 = false →
      exec (.qcfgWrite (.word p v)) s = .next (s.setQueue q { x with
        lsize := BitVec.ofNat 4 (max 4 (n % 16)), prio := BitVec.ofNat 2 (bitsOf n 5 4), safe := bitOf n 6, en := true
        stream := BitVec.ofNat 4 (bitsOf n 11 8), sbind := false, quota := BitVec.ofNat 15 (min 16384 (bitsOf n 28 14))
        head := 0, tail := 0, chead := 0, ctail := 0 })) ∧
    (x.en = true → bitOf n 7 = false →
      exec (.qcfgWrite (.word p v)) s = .next (s.setQueue q { x with
        prio := BitVec.ofNat 2 (bitsOf n 5 4), safe := bitOf n 6, en := false, quota := BitVec.ofNat 15 (min 16384 (bitsOf n 28 14))
        held := false, reason := 0 })) ∧
    (x.en = true → exec (.registerWrite 0x0B (.word p v)) s = .next s)

/-! ## Skouk -/

/-- R525, R526, R528: an RREG of one word whose read has no side effect is answered by RESP with result OK and the word; a WREG of `SCRATCH` stores the
word and is answered by RESP with result OK. Neither changes a byte of DRAM, a queue word or an entry. -/
def Obligations.RegisterFramesAreAnswered : Prop :=
  ∀ (f : SkFrame) (s : State), s.Quiet → s.InOrder f → s.sec.reeveHalted = false → s.sec.lc ≠ 0xF →
    (s.Receives tyRreg f → fld f.param 1 1 = 1 → fld f.param 0 1 < 64 →
      (fld f.param 0 1 ≠ 0x2E ∧ fld f.param 0 1 ≠ 0x38 ∧ fld f.param 0 1 ≠ 0x18 ∧ fld f.param 0 1 ≠ 0x27) →
      ∃ t fr, exec (.rreg f) s = .next t ∧ s.Answered t f fr tyResp ∧ fld fr.param 0 1 = rsOk ∧
        fr.payload = leBytes 4 (s.wordValue (.port f.port) (fld f.param 0 1)).toNat ∧ t.dram = s.dram ∧ t.queues = s.queues ∧
        t.ledger = s.ledger ∧ t.dev = s.dev ∧ t.ctxs = s.ctxs) ∧
    (s.Receives tyWreg f → fld f.param 0 1 = 0x3B →
      ∃ t fr, exec (.wreg f) s = .next t ∧ s.Answered t f fr tyResp ∧ fld fr.param 0 1 = rsOk ∧
        t.dev = { s.dev with scratch := BitVec.ofNat 32 (fld f.param 4 4) } ∧ t.dram = s.dram ∧ t.queues = s.queues ∧ t.ledger = s.ledger ∧
        t.ctxs = s.ctxs)

/-- R527, R528, R529: an RMEM within DRAM or flash, of at least one byte and at most the pair payload size, is answered by RESP with result OK and the
bytes; a WMEM within DRAM and outside every verified region stores its payload, every byte of it and no other byte, and is answered by RESP with
result OK. An RMEM of a range that lies in neither is answered with REGION, and one of no byte or of too many with RANGE. -/
def Obligations.MemoryFramesAreAnswered : Prop :=
  ∀ (f : SkFrame) (s : State), s.Quiet → s.Healthy → s.Working → s.InOrder f → s.lcWork = true → s.sec.lc ≠ 0xF →
    let a := fld f.param 0 6
    let n := fld f.param 8 4
    (s.Receives tyRmem f → (n = 0 ∨ s.pairPsize (epOf f.src) < n) →
      ∃ t fr, exec (.rmem f) s = .next t ∧ s.Answered t f fr tyResp ∧ fld fr.param 0 1 = rsRange ∧ fr.payload = [] ∧ t.dram = s.dram ∧
        t.ledger = s.ledger ∧ t.queues = s.queues) ∧
    (s.Receives tyRmem f → n ≠ 0 → n ≤ s.pairPsize (epOf f.src) →
      ∃ t fr, exec (.rmem f) s = .next t ∧ s.Answered t f fr tyResp ∧ t.dram = s.dram ∧ t.ledger = s.ledger ∧ t.queues = s.queues ∧
        (if inDram a n = true ∨ inFlash a n = true then fld fr.param 0 1 = rsOk ∧ fr.payload = s.memBytes a n
         else fld fr.param 0 1 = rsRegion ∧ fr.payload = [])) ∧
    (s.Receives tyWmem f → inDram a n = true → n ≠ 0 → f.payload.length = n → s.inVerified a n = false →
      ∃ t fr, exec (.wmem f) s = .next t ∧ s.Answered t f fr tyResp ∧ fld fr.param 0 1 = rsOk ∧
        (∀ i, i < n → t.byte (a + i) = f.payload[i]?.getD 0) ∧ (∀ b, b < a ∨ a + n ≤ b → t.byte b = s.byte b) ∧
        t.ledger = s.ledger ∧ t.queues = s.queues)

/-- R557, R554, R556, R354: a WWIN that its window admits, and a SEND frame whose number the receiver has not seen, within its window of 16,384 and from a device
of the mask, land in the Barn and are answered by WACK; a SEND frame whose number lies below the receiver's base is answered by WACK and does not land again. A write that its window
does not admit is answered by WNAK with WINDOW, and a SEND number beyond the receiver's window by WNAK with RANGE; neither lands. No byte of DRAM changes. -/
def Obligations.RemoteWritesLand : Prop :=
  ∀ (f : SkFrame) (s : State), s.Quiet → s.Healthy → s.InOrder f → wpEng f < 24 → wpWin f < 8 → (s.eng (wpEng f)).fenced = false →
    let x := s.window (wpEng f) (wpWin f)
    (s.Receives tyWwin f → x.admits (wpEpoch f) true (wpOff f) f.payload.length = true →
      ∃ t fr, exec (.wwin f) s = .next t ∧ s.Answered t f fr tyWack ∧ t.dram = s.dram ∧ t.windows = s.windows ∧
        t.engines = (s.modEng (wpEng f) fun e => { e with barn := e.barn.put (wpOff f) f.payload }).engines) ∧
    (s.Receives tyWwin f → x.admits (wpEpoch f) true (wpOff f) f.payload.length = false →
      ∃ t fr, exec (.wwin f) s = .next t ∧ s.Answered t f fr tyWnak ∧ fld fr.param 12 1 = wnWindow ∧ t.dram = s.dram ∧ t.engines = s.engines) ∧
    (s.Receives tySend f → isHost (epOf f.src) = false → (s.rx (epOf f.src)).base.toNat + 16384 ≤ fld f.param 0 6 →
      Tab.get 0 (s.rx (epOf f.src)).answers (fld f.param 0 6) = 0 →
      ∃ t fr, exec (.sendFrameReceive f) s = .next t ∧ s.Answered t f fr tyWnak ∧ fld fr.param 12 1 = wnRange ∧ t.dram = s.dram ∧
        t.engines = s.engines ∧ t.sendRx = s.sendRx) ∧
    (s.Receives tySend f → isHost (epOf f.src) = false → x.devmask.getLsbD (epOf f.src) = true →
      x.admits (wpEpoch f) true (wpOff f) f.payload.length = true → (s.rx (epOf f.src)).base.toNat ≤ fld f.param 0 6 →
      fld f.param 0 6 < (s.rx (epOf f.src)).base.toNat + 16384 → Tab.get 0 (s.rx (epOf f.src)).answers (fld f.param 0 6) = 0 →
      ∃ t fr, exec (.sendFrameReceive f) s = .next t ∧ s.Answered t f fr tyWack ∧ t.dram = s.dram ∧ t.windows = s.windows ∧
        t.engines = (s.modEng (wpEng f) fun e => { e with barn := e.barn.put (wpOff f) f.payload }).engines) ∧
    (s.Receives tySend f → isHost (epOf f.src) = false → fld f.param 0 6 < (s.rx (epOf f.src)).base.toNat →
      ∃ t fr, exec (.sendFrameReceive f) s = .next t ∧ s.Answered t f fr tyWack ∧ t.dram = s.dram ∧ t.engines = s.engines ∧ t.sendRx = s.sendRx)

/-- R556, R558: a WACK of an unanswered SEND frame ends its number; a WNAK with reason RANGE keeps it for another try; one with reason WINDOW or FENCED ends
its number, and completes the command of the tile with that status where the slot still holds it. A WACK or WNAK of a number that is not awaited
changes no number. The other try after RANGE sends the same parameters and payload again, where the tile is still current, as the pair's next frame or
behind those that wait; a frame whose tile has gone is forgotten. -/
def Obligations.SendsAreAnswered : Prop :=
  (∀ (f : SkFrame) (s : State), s.Quiet → s.Healthy → s.InOrder f → epOf f.src < 64 → s.Receives tyWack f →
    ∃ t, exec (.wack f) s = .next t ∧ t.ledger = s.ledger ∧ t.dram = s.dram ∧ (t.peer (epOf f.src)).exp = f.seq + 1 ∧
      t.sendTx = (if (s.sendOut (epOf f.src) (fld f.param 0 6)).isSome then (s.sendAnswered (epOf f.src) (fld f.param 0 6)).sendTx
        else s.sendTx)) ∧
  (∀ (f : SkFrame) (s : State), s.Quiet → s.Healthy → s.InOrder f → epOf f.src < 64 → s.Receives tyWnak f →
    let dev := epOf f.src
    let n := fld f.param 0 6
    (s.sendOut dev n = none → ∃ t, exec (.wnak f) s = .next t ∧ t.sendTx = s.sendTx ∧ t.ledger = s.ledger ∧ t.dram = s.dram ∧
      (t.peer dev).exp = f.seq + 1) ∧
    ∀ o, s.sendOut dev n = some o →
      (fld f.param 12 1 = wnRange → ∃ t, exec (.wnak f) s = .next t ∧ t.ledger = s.ledger ∧ t.dram = s.dram ∧ (t.peer dev).exp = f.seq + 1 ∧
        t.sendTx = (s.setStx dev { s.stx dev with
          out := (s.stx dev).out.map fun x => if x.ssn.toNat == n then { x with retry := true } else x }).sendTx) ∧
      ((fld f.param 12 1 = wnWindow ∨ fld f.param 12 1 = wnFenced) → ((s.slot o.slot).used = false ∨ (s.slot o.slot).epoch ≠ o.epoch) →
        ∃ t, exec (.wnak f) s = .next t ∧ t.sendTx = (s.sendAnswered dev n).sendTx ∧ t.ledger = s.ledger ∧ t.dram = s.dram ∧
          (t.peer dev).exp = f.seq + 1) ∧
      ((fld f.param 12 1 = wnWindow ∧ (cmdOf (s.cmdBytes (s.slot o.slot).entry.val)).tolerant = false ∨ fld f.param 12 1 = wnFenced) →
        (s.slot o.slot).used = true → (s.slot o.slot).stopping = false → (s.slot o.slot).epoch = o.epoch →
        (s.entry (s.slot o.slot).entry.val).status = 0 → s.cmdCont (s.slot o.slot).entry.val = false →
        ∃ t, exec (.wnak f) s = .next t ∧ t.sendTx = (s.sendAnswered dev n).sendTx ∧ t.dram = s.dram ∧
          (t.entry (s.slot o.slot).entry.val).st = .committed ∧
          (t.entry (s.slot o.slot).entry.val).status = BitVec.ofNat 8 (if fld f.param 12 1 = wnWindow then stWindow else stFenced))) ∧
  ∀ (dev : Fin 64) (ssn : BitVec 48) (s : State) (o : SendOut), s.Quiet → s.sendOut dev.val ssn.toNat = some o →
    (o.retry = false → exec (.sendRangeRetry dev ssn) s = .next s) ∧
    (o.retry = true → s.staleSend dev.val o.frame = true →
      exec (.sendRangeRetry dev ssn) s = .next (s.sendAnswered dev.val ssn.toNat)) ∧
    (o.retry = true → s.staleSend dev.val o.frame = false →
      let p := s.peer dev.val
      ∃ t fr, exec (.sendRangeRetry dev ssn) s = .next t ∧ fr.param = o.frame.param ∧ fr.payload = o.frame.payload ∧ fr.ty.toNat = tySend ∧
        t.ledger = s.ledger ∧ t.dram = s.dram ∧
        t.sendTx = (s.setStx dev.val { s.stx dev.val with
          out := (s.stx dev.val).out.map fun x => if x.ssn == ssn then { x with retry := false } else x }).sendTx ∧
        (if p.joined = true ∧ p.down = false ∧ p.waiting = [] ∧ p.unacked.length < 64 then (t.peer dev.val).unacked = p.unacked ++ [fr]
         else (t.peer dev.val).waiting = p.waiting ++ [fr]))

/-- R519, R521, R522: an owed acknowledgement is sent after 10 µs, and none is owed then. After the timeout of the oldest frame as many frames
leave again as are unacknowledged, which stay so with their SEQ, and the time-outs in a row are counted; the eighth takes the pair DOWN. A
frame behind a closed gate of its class waits there instead (R504). No byte of DRAM changes.
R521, R517, R534: an ACK of the recorded generation releases every frame before its value and no other, and begins the count of further ACKs again,
where no completion, JOIN or waiting frame is concerned. -/
def Obligations.PairTimers : Prop :=
  (∀ (f : SkFrame) (s : State), s.Quiet → s.Receives tyAck f →
     let p := s.peer (epOf f.src)
     p.joined = true → p.bepoch = f.bepoch → p.lgen = f.lgen → bitOf f.flags.toNat 0 = true → p.waiting = [] →
     (p.unacked.any fun x => seqBefore x.seq f.ack) = true →
     (p.unacked.all fun x => x.ty.toNat != tyCpl && x.ty.toNat != tyJoin) = true →
     exec (.ack f) s = .next ((s.bump 5 f.port.val 0 1).setPeer (epOf f.src) { p with
       unacked := p.unacked.filter (fun x => !seqBefore x.seq f.ack), lastAck := f.ack, ackRepeats := 0, timeouts := 0 })) ∧
  ∀ (ep : Fin 128) (s : State), s.Quiet → s.NetActive → (s.port (s.peer ep.val).port.toNat).carries = true →
    let n := (s.peer ep.val).port.toNat
    (0 < (s.peer ep.val).ackOwed →
      ∃ t fr v c, exec (.ackTimer ep) s = .next t ∧ (t.peer ep.val).ackOwed = 0 ∧ fr.ty.toNat = tyAck ∧
        fr.ack = (s.peer ep.val).exp ∧ fr.dst = epByte ep.val ∧ t.dram = s.dram ∧
        (s.Sends n → t.tx = s.tx ++ [.skouk v c fr]) ∧
        ((s.port n).gates.getLsbD (bitsOf (s.port n).cfg.toNat 26 24) = false → s.packetBytes + 70 ≤ 4194304 →
          t.tx = s.tx ∧ (t.port n).egress = (s.port n).egress ++ [(bitsOf (s.port n).cfg.toNat 26 24, .skouk v c fr)])) ∧
    (s.Sends n → (s.peer ep.val).unacked ≠ [] → (s.peer ep.val).timeouts < 7 → (∀ x ∈ (s.peer ep.val).unacked, x.port.val = n) →
      ∃ t, exec (.resendTimeout ep) s = .next t ∧ (t.peer ep.val).timeouts = (s.peer ep.val).timeouts + 1 ∧
        (t.peer ep.val).unacked = (s.peer ep.val).unacked ∧ t.tx.length = s.tx.length + (s.peer ep.val).unacked.length ∧ t.dram = s.dram) ∧
    ((s.peer ep.val).unacked ≠ [] → 7 ≤ (s.peer ep.val).timeouts → (isHost ep.val = true ∨ (s.stx ep.val).out = []) → (s.peer ep.val).present = true → (s.peer ep.val).down = false →
      ∃ t, exec (.resendTimeout ep) s = .next t ∧ (t.peer ep.val).down = true ∧ (t.peer ep.val).joinSent = false ∧ t.dram = s.dram ∧
        t.ledger = s.ledger)

/-- R523, R545, R546: a JOIN of another endpoint, with the fields that R523 and R546 ask for and no acknowledgement, is recorded: its boot epoch, link
generation and address, and the SEQ after its own as the next; a request is answered by the device's own JOIN. A HELLO of an endpoint it knows nothing of
makes it present at its port and sends a JOIN. No byte of DRAM changes. -/
def Obligations.EndpointsAreMet : Prop :=
  ∀ (f : SkFrame) (s : State), s.Quiet → s.Healthy → epOf f.src ≠ s.dev.id.toNat →
    (s.Receives tyJoin f → bitOf f.flags.toNat 1 = true → bitOf f.flags.toNat 0 = false →
      (isHost (epOf f.src) = false → fld f.param 1 1 = 1) →
      (isHost (epOf f.src) = true → (s.peer (epOf f.src)).bepoch = f.bepoch ∨ ∀ r ∈ s.ledger, (s.entry r.1).st ≠ .posted) →
      ∃ t, exec (.join f) s = .next t ∧ (t.peer (epOf f.src)).present = true ∧ (t.peer (epOf f.src)).joined = true ∧
        (t.peer (epOf f.src)).bepoch = f.bepoch ∧ (t.peer (epOf f.src)).lgen = f.lgen ∧ (t.peer (epOf f.src)).mac = f.smac ∧
        (t.peer (epOf f.src)).exp = f.seq + 1 ∧ (fld f.param 0 1 = 0 → (t.peer (epOf f.src)).joinSent = true) ∧ t.dram = s.dram ∧
        t.queues = s.queues) ∧
    (s.Receives tyHello f → s.peer (epOf f.src) = {} →
      ∃ t fr, exec (.hello f) s = .next t ∧ (t.peer (epOf f.src)).present = true ∧ (t.peer (epOf f.src)).mac = f.smac ∧
        (t.peer (epOf f.src)).port = BitVec.ofNat 3 f.port.val ∧ (t.peer (epOf f.src)).joinSent = true ∧ (t.peer (epOf f.src)).unacked = [fr] ∧ fr.ty.toNat = tyJoin ∧ fr.dst = epByte (epOf f.src) ∧
        t.dram = s.dram ∧ t.queues = s.queues)

/-- R545, R549, R736: HELLO_SEND puts a HELLO on the wire of every port that carries frames and is no SENSOR port, where the gate of its class is open
(R504), and changes nothing else but the ports' counts and waiting frames. A
device that is present and not heard for 10 ms is lost: its pairs are DOWN and PEER_LOST is recorded. A due notice of an enabled interrupt goes to the
partners of HOST ports, and is then due no more. -/
def Obligations.LinkNotices : Prop :=
  (∀ s : State, s.Quiet → s.NetActive →
    ∃ t, exec .helloSend s = .next t ∧ (∀ n : Fin 8, (s.port n.val).role ≠ 1 → s.Sends n.val →
      ∃ v c fr, TxFrame.skouk v c fr ∈ t.tx ∧ fr.port = n ∧ fr.ty.toNat = tyHello ∧ fr.dmac = s.groupMac ∧ fr.bepoch = s.dev.epoch) ∧
      { t with tx := s.tx, ctrs := s.ctrs, ports := s.ports } = s) ∧
  (∀ (d : Fin 64) (s : State), s.Quiet → s.Healthy → s.NetActive → s.BookRoom → (s.peer d.val).present = true → (s.stx d.val).out = [] →
    ∃ t r, exec (.peerLost d) s = .next t ∧ (t.peer d.val).present = false ∧ (t.peer d.val).down = true ∧ t.book.buf = s.book.buf ++ [r] ∧
      r.code = 0x0501 ∧ r.p0 = BitVec.ofNat 32 d.val ∧ t.dram = s.dram ∧ t.ledger = s.ledger) ∧
  ∀ s : State, s.Quiet → s.NetActive → s.dev.irqDue = true → s.dev.irqstat &&& s.dev.irqen ≠ 0 → s.hostPartners ≠ [] →
    ∃ t, exec .irqEventNotice s = .next t ∧ t.dev = { s.dev with irqDue := false } ∧ t.dram = s.dram ∧ t.peers = s.peers ∧
      ∀ ep ∈ s.hostPartners, s.Sends (s.peer ep).port.toNat →
        ∃ v c fr, TxFrame.skouk v c fr ∈ t.tx ∧ fr.ty.toNat = tyEvent ∧ fr.dst = epByte ep

/-! ## Streams, the Market, links and time -/

/-- R537, R538, R539, R541: an AAF frame, and a frame that carries a Skouk STREAM frame which passes R516, that a rule directs to a running stream with a free
slot fill the slot at PIDX with header and payload and advance PIDX. R504, R508: without an expert classifier table, a frame at a TRUNK port for an
address learned on another TRUNK port leaves at that port alone, one for an address that is not learned leaves at every other TRUNK port, and its source is learned; no byte of DRAM
changes. -/
def Obligations.FramesReachTheirPlace : Prop :=
  (∀ (fr : EthFrame) (a : AvtpFrame) (s : State) (st i : Nat), s.Quiet → fr.body = .avtp a → a.aaf = true →
    ((s.port fr.port.val).role = 1 ∨ (s.port fr.port.val).role = 3) → s.StreamTakes fr st i 0 →
    s.slotFits (s.streamRec st) a.payload.length = true → s.slotWritable (s.streamRec st) = true →
    ∃ t, exec (.aafFrame fr) s = .next t ∧ s.SlotFilled t st a.sid.toNat a.payload ∧ t.ledger = s.ledger ∧ t.queues = s.queues) ∧
  (∀ (fr : EthFrame) (f : SkFrame) (s : State) (st i : Nat), s.Quiet → fr.body = .skouk f → f.ty.toNat = tyStream →
    (s.skAdmits f true).1 = true → s.StreamTakes fr st i 1 →
    s.slotFits (s.streamRec st) f.payload.length = true → s.slotWritable (s.streamRec st) = true →
    ∃ t, exec (.stream fr) s = .next t ∧ s.SlotFilled t st (fld f.param 0 8) f.payload ∧ t.ledger = s.ledger ∧ t.queues = s.queues) ∧
  ∀ (fr : EthFrame) (s : State), s.Quiet → s.NetActive → (s.port fr.port.val).en = true →
    (s.port fr.port.val).rate ≠ 0 → fr.fcsOk = true → fr.len ≤ (s.port fr.port.val).maxLen → bitOf (s.port fr.port.val).cfg.toNat 8 = false →
    fr.etype ≠ 0x888E → fr.etype ≠ 0x88F7 → (s.table 4).expert = false → fr.dmac ≠ s.ownMac → fr.dmac ≠ s.groupMac →
    (s.port fr.port.val).role = 3 →
    ∃ t, exec (.frameReceive fr) s = .next t ∧ t.market.learned.head? = some (fr.smac, fr.vid, fr.port) ∧ t.dram = s.dram ∧ t.ledger = s.ledger ∧
      (∀ x, (s.market.learned.find? fun x => x.1 == fr.dmac && x.2.1 == fr.vid) = some x → x.2.2 ≠ fr.port → (s.port x.2.2.val).role = 3 →
        s.Opens x.2.2.val fr.pcp.toNat → t.tx = s.tx ++ [.bridged x.2.2 fr]) ∧
      ((s.market.learned.find? fun x => x.1 == fr.dmac && x.2.1 == fr.vid) = none →
        ∀ n : Fin 8, n ≠ fr.port → (s.port n.val).role = 3 → s.Opens n.val fr.pcp.toNat → TxFrame.bridged n fr ∈ t.tx)

/-- R497, R502, R512, R510, R542, R735: an enabled port that is down and not taken down by the Bell trains to the highest rate both partners advertise, and
IRQSTAT.LINK is set; a lost link leaves rate 0 and no partner, and sets IRQSTAT.LINK. The first synchronisation sets the time to the domain's, and a part that becomes grandmaster makes no step. A
running gate control list goes to its next entry, after the last to the first, and frames that waited for a gate that is now open leave. A triggered submission that admission accepts becomes an ACCEPTED
entry with its tag, and is not tried again. -/
def Obligations.LinksTimeAndTriggers : Prop :=
  (∀ (n : Fin 8) (pr : BitVec 3) (s : State), s.Quiet → s.NetActive → (s.port n.val).en = true → (s.port n.val).downf = false →
    (s.port n.val).rate = 0 → linkRate (s.port n.val).cfg.toNat pr ≠ 0 →
    ∃ t, exec (.linkUp n pr) s = .next t ∧ (t.port n.val).rate = BitVec.ofNat 2 (linkRate (s.port n.val).cfg.toNat pr) ∧
      t.dev.irqstat = s.dev.irqstat ||| irqLink ∧ (∀ m, m ≠ n.val → t.port m = s.port m) ∧ t.dram = s.dram ∧ t.peers = s.peers) ∧
  (∀ (n : Fin 8) (s : State), s.Quiet → s.Healthy → (s.port n.val).rate ≠ 0 →
    ∃ t, exec (.linkDown n) s = .next t ∧ (t.port n.val).rate = 0 ∧ (t.port n.val).partner = none ∧
      t.dev.irqstat = s.dev.irqstat ||| irqLink ∧ (∀ m, m ≠ n.val → t.port m = s.port m) ∧ t.dram = s.dram) ∧
  (∀ (tm : Quad) (s : State), s.Quiet → s.NetActive →
    exec (.timeSync tm true) s = .next (s.modDev fun d => { d with synced := true }) ∧
    ∃ t, exec (.timeSync tm false) s = .next t ∧ t.dev.time = tm ∧ t.dev.synced = true ∧ t.dram = s.dram ∧ t.ports = s.ports) ∧
  (∀ (n : Fin 8) (s : State), s.Quiet → s.NetActive → (s.table (16 + n.val)).commit = false → (s.table (16 + n.val)).expert = true →
    let len := leNat (Mem.getBytes 0 (s.table (16 + n.val)).active 18 2)
    let pos := ((s.port n.val).gatePos + 1) % max 1 (min 256 len)
    let g := s.gateEntry n.val pos
    ∃ t, exec (.gateStateChange n) s = .next t ∧
      t.port n.val = { s.port n.val with gatePos := pos, gates := g, egress := (s.port n.val).egress.filter fun x => !g.getLsbD x.1 } ∧
      (∀ x ∈ (s.port n.val).egress, g.getLsbD x.1 = true → x.2 ∈ t.tx) ∧ (∀ m, m ≠ n.val → t.port m = s.port m) ∧
      { t with ports := s.ports, tx := s.tx, ctrs := s.ctrs } = s) ∧
  ∀ (st : Fin 16) (q k : Nat) (s : State), s.Quiet → s.Healthy → s.NetActive → s.sec.reeveHalted = false →
    s.boundQueue st.val = some q → (s.stream st.val).retry = [k] →
    s.admission q (some (s.dev.id, false, BitVec.ofNat 64 (st.val * 2 ^ 56 + k % 2 ^ 56))) = .accept →
    (∃ e, e < 16384 ∧ (Tab.get {} s.ledger e).st = .free) →
    ∃ t e, exec (.triggeredSubmitRetry st) s = .next t ∧ (t.stream st.val).retry = [] ∧ (Tab.get {} s.ledger e).st = .free ∧
      (t.entry e).st = .accepted ∧ (t.entry e).tag = BitVec.ofNat 64 (st.val * 2 ^ 56 + k % 2 ^ 56) ∧ (t.entry e).queue = BitVec.ofNat 5 q ∧
      (t.entry e).cplack = true ∧ t.dram = s.dram

/-! ## Faults -/

/-- R561, R564-R568, R569, R576, R580, R587: a report of class C with action LOG (source 0x29) is summed up in FLTSUM.CSET and recorded the first time, and moves no
fault state; a class X report of a calm Bell halts the device, enters HALTED and drives FLT; a tile that makes no progress fences its engine, which loses
its claims and whose windows close, and enters FAULT. None of them changes a byte of DRAM. -/
def Obligations.ReportsAreHandled : Prop :=
  (∀ s : State, s.Quiet → s.Healthy → s.BookRoom → s.dev.pstate ≠ psOff → s.BellCalm →
    ∃ t, exec (.faultReport { source := 0x29 }) s = .next t ∧ t.bell.fltsum = s.bell.fltsum ||| fsCset ∧ t.bell.fstate = s.bell.fstate ∧
      t.bell.reactions = s.bell.reactions ∧ t.dev = s.dev ∧ t.dram = s.dram ∧ t.queues = s.queues ∧
      (if s.bell.seen.contains (reportKey { source := 0x29 }) then t.book = s.book
       else ∃ r, t.book.buf = s.book.buf ++ [r] ∧ r.code = 0x0129)) ∧
  (∀ s : State, s.Quiet → s.Healthy → s.dev.pstate = psActive → s.dev.bootok = true → s.dev.halted = false → s.BellCalm →
    (∀ n, n < 24 → ∀ c ∈ (s.eng n).claims, c.phase = .compute → c.computed = true) →
    ∃ t, exec (.faultReport { source := 0x20 }) s = .next t ∧ t.dev.halted = true ∧ t.bell.fstate = .halted ∧
      t.bell.fltsum &&& fsXset ≠ 0 ∧ t.fltPins = (false, true) ∧ t.dram = s.dram ∧ t.queues = s.queues ∧
      (s.bell.fltsum &&& fsXset = 0 → t.dev.irqstat &&& irqFault ≠ 0)) ∧
  ∀ (n : Fin 24) (s : State) (c : Claim), s.Quiet → s.Healthy → s.dev.pstate = psActive → s.dev.bootok = true → s.dev.halted = false →
    s.BellCalm → (s.eng n.val).fenced = false → (s.eng n.val).testing = false →
    ((s.eng n.val).claims.find? fun c => c.phase != .claimed) = some c → (c.phase = .compute → c.computed = true) →
    ∃ t, exec (.ploughTmo n) s = .next t ∧ (t.eng n.val).fenced = true ∧ (t.eng n.val).claims = [] ∧
      (∀ w, w < 8 → (t.window n.val w).st = .closed) ∧ t.bell.fstate = .fault ∧ t.fltPins = (false, true) ∧ t.dram = s.dram

/-- R582, R585, R587, R565, R590: with nothing fenced, disabled, halted or held, the quiet timer's exit from FAULT, and one that `FLTCTL.EXIT` asks for below
the limit, end at once in NORMAL with no reaction in force and FLT released; the automatic one counts. One that finds engines fenced starts their self-tests and
waits, and one in a halted device asks for a warm reset first. In NORMAL, `FLTCTL.EXIT` clears the class C cause and records QUIET_EXIT. A quiet period ends a source's escalation count. ALERT_N is released after its minimum time unless FLTSUM.ALERT still calls. -/
def Obligations.FaultStateIsLeft : Prop :=
  (∀ s : State, s.Quiet → s.BookRoom → s.bell.quietRunning = true → s.bell.autoexit = true → s.bell.fstate = .fault → s.dev.halted = false →
    (∀ n, n < 24 → (s.eng n).fenced = false) → (∀ n, n < 64 → (s.slice n).disabled = false) → s.NoHeld →
    s.dev.pstate = psActive → s.dev.bootok = true → s.power.inhibit = false →
    ∃ t, exec .quietTimerExpiry s = .next t ∧ t.bell.fstate = .normal ∧ t.bell.reactions = [] ∧ t.fltPins = (true, false) ∧
      t.bell.count = (if s.bell.count = 15 then 15 else s.bell.count + 1) ∧ t.dram = s.dram ∧ t.ledger = s.ledger) ∧
  (∀ (p : Path) (s : State), s.Quiet → s.BookRoom → s.canWrite p 0x1B = true →
    (s.bell.fstate = .normal → ∃ t r, exec (.fltctlExit p) s = .next t ∧ t.bell = { s.bell with cflt := false } ∧
      t.book.buf = s.book.buf ++ [r] ∧ r.code = 0x0201 ∧ t.dram = s.dram) ∧
    (s.bell.fstate ≠ .normal → s.bell.count ≠ s.bell.limit → s.dev.halted = false → (∀ n, n < 24 → (s.eng n).fenced = false) →
      (∀ n, n < 64 → (s.slice n).disabled = false) → s.NoHeld →
      ∃ t, exec (.fltctlExit p) s = .next t ∧ t.bell.fstate = .normal ∧ t.bell.reactions = [] ∧ t.bell.count = s.bell.count ∧ t.dram = s.dram) ∧
    (∀ n, n < 24 → s.bell.fstate ≠ .normal → s.dev.halted = false → (s.eng n).fenced = true → (s.eng n).retired = false → (s.eng n).testing = false →
      ∃ t, exec (.fltctlExit p) s = .next t ∧ t.eng n = { s.eng n with testing := true } ∧ t.bell.fstate = s.bell.fstate ∧ t.dev = s.dev ∧ t.dram = s.dram) ∧
    (s.bell.fstate ≠ .normal → s.dev.halted = true →
      ∃ t, exec (.fltctlExit p) s = .next t ∧ t.power.wrstReq = some 2 ∧ t.bell.fstate = s.bell.fstate ∧ t.dev = s.dev ∧ t.dram = s.dram)) ∧
  (∀ (src : Fin 128) (inst : Nat) (s : State), s.Quiet → exec (.escalationQuietExpiry src inst) s =
    .next (s.modBell fun b => { b with esc := Tab.set 0 b.esc (src.val * 256 + inst) 0 })) ∧
  ∀ s : State, s.Quiet → exec .alertNMinLowExpiry s = .next (s.modPins fun p => { p with
    alertMin := false, alertPulse := false, alertLow := p.alertLow && decide (s.bell.fltsum &&& fsAlert ≠ 0) })

/-- R583, R586, R341, R262, R744: an engine that passes its self-test is admitted again, with its Barn and Stook cleared and its Winograd stage enabled; one that fails
is retired and recorded. A slice that passes is enabled, with no line; one that fails stays disabled and is recorded. `ENGCTL.READMIT` starts the self-test of a
fenced engine; `ENGCTL.DIS` sets the engines that claim nothing further. -/
def Obligations.UnitsAreReadmitted : Prop :=
  (∀ (n : Fin 24) (s : State), s.Quiet → (s.eng n.val).testing = true →
    ((s.eng n.val).claims = [] → ∃ t, exec (.engineSelfTestDone n 0) s = .next t ∧ (t.eng n.val).fenced = false ∧ (t.eng n.val).retired = false ∧ (t.eng n.val).testing = false ∧
      (t.eng n.val).winoOff = false ∧ (t.eng n.val).barn = {} ∧ (t.eng n.val).stook = [] ∧ (∀ m, m ≠ n.val → t.eng m = s.eng m) ∧
      t.dram = s.dram ∧ t.book = s.book) ∧
    ∀ k : Fin 6, k ≠ 0 → s.BookRoom → ∃ t r, exec (.engineSelfTestDone n k) s = .next t ∧ (t.eng n.val).fenced = true ∧ (t.eng n.val).retired = true ∧
      t.book.buf = s.book.buf ++ [r] ∧ r.code = 0x0202 ∧ r.p1 = BitVec.ofNat 32 n.val ∧ r.p2 = BitVec.ofNat 32 k.val ∧
      (∀ m, m ≠ n.val → t.eng m = s.eng m) ∧ t.dram = s.dram) ∧
  (∀ (n : Fin 64) (s : State), s.Quiet → (s.slice n.val).testing = true →
    exec (.sliceSelfTestDone n true) s = .next (s.modSlice n.val fun x => { x with testing := false, disabled := false, tags := [], plru := [], bad := [] }) ∧
    (s.BookRoom → ∃ t r, exec (.sliceSelfTestDone n false) s = .next t ∧ (t.slice n.val).disabled = true ∧ (t.slice n.val).testing = false ∧
      t.book.buf = s.book.buf ++ [r] ∧ r.code = 0x0202 ∧ r.p0 = 1 ∧ r.p1 = BitVec.ofNat 32 n.val ∧ t.dram = s.dram)) ∧
  ∀ (p : Path) (s : State), s.Quiet → s.canWrite p 0x17 = true →
    (∀ r : BitVec 5, r.toNat < 24 → (s.eng r.toNat).fenced = true → (s.eng r.toNat).testing = false →
      exec (.engctlReadmit p r) s = .next ((s.modDev fun d => { d with reng := r }).modEng r.toNat fun e => { e with testing := true, readmit := true })) ∧
    ∀ mask, (s.dev.dis &&& ~~~ mask = 0 → exec (.engctlDis p mask) s = .next (s.modDev fun d => { d with dis := mask })) ∧
      (s.Healthy → ∃ t, exec (.engctlDis p mask) s = .next t ∧ t.dev = { s.dev with dis := mask } ∧ t.dram = s.dram ∧ t.slots = s.slots ∧
        t.queues = s.queues)

/-! ## The Parish Book -/

/-- R605, R606, R603, R611, R612, R691, R610: `PBCTL.FLUSH` starts a flush of buffered records; each record programmed leaves the buffer for the next free position of the
region. `PBCTL.CLEAR` with the authority erases and uses it up; without it, it is recorded and erases nothing; the erase ends with BOOK_CLEARED, which
gives the count it cleared, at position 0. A `PBCUR` write loads the path's window with that record, and reading the last word of the window goes to the
next record under AINC. -/
def Obligations.ParishBook : Prop :=
  (∀ (p : Path) (s : State), s.Quiet → s.canWrite p 0x1F = true → s.power.inhibit = false → s.book.erasing = false → s.book.flushing = false →
    (s.book.buf ≠ [] → s.book.full = false →
      ∃ t, exec (.pbctlFlush p) s = .next t ∧ t.book = { s.book with flushing := true, flushReq := true } ∧
        t.dev.irqstat = s.dev.irqstat ||| irqPf ∧ t.dram = s.dram) ∧
    (s.sec.clrauth = true →
      exec (.pbctlClear p) s = .next ((s.modSec fun c => { c with clrauth := false }).modBook fun b => { b with erasing := true })) ∧
    (s.sec.clrauth = false → s.BookRoom →
      ∃ t r, exec (.pbctlClear p) s = .next t ∧ t.book = { s.book with buf := s.book.buf ++ [r] } ∧ r.code = 0x000A ∧ t.sec = s.sec)) ∧
  (∀ (r r2 : Rec) (rest : List Rec) (s : State), s.Quiet → s.book.flushing = true → s.book.buf = r :: r2 :: rest → s.book.regn < 16383 →
    s.book.dropped = 0 →
    exec .pbRecordProgrammed s = .next (s.modBook fun b => { b with
      buf := r2 :: rest, regn := b.regn + 1
      region := Tab.set (BitVec.allOnes 256) b.region b.regn (BitVec.ofNat 256 (leNat (recBytes r b.regn))) })) ∧
  (∀ s : State, s.Quiet → s.book.erasing = true → s.book.buf = [] →
    ∃ t r, exec .pbEraseDone s = .next t ∧ r.code = 0x0701 ∧ r.p0 = BitVec.ofNat 32 s.book.regn ∧ t.book.regn = 1 ∧ t.book.erasing = false ∧
      t.book.full = false ∧ t.book.region = Tab.set (BitVec.allOnes 256) [] 0 (BitVec.ofNat 256 (leNat (recBytes r 0))) ∧ t.dram = s.dram) ∧
  ∀ (p : Path) (s : State), s.Quiet →
    (∀ v : Word, s.canWrite p 0x1E = true → ∃ t, exec (.pbcurWrite (.word p v)) s = .next t ∧
      (t.ctx p).pbcur = BitVec.ofNat 15 (bitsOf v.toNat 14 0) ∧ t.book = s.book ∧
      ∀ k, k < 8 → Tab.get 0 (t.ctx p).pbwin k = BitVec.ofNat 32 (fld (s.book.read (bitsOf v.toNat 14 0)) (4 * k) 4)) ∧
    (s.canRead p = true → s.book.ainc = true → ∃ t, exec (.pbwin7Read p) s = .next t ∧ (t.ctx p).rdata = Tab.get 0 (s.ctx p).pbwin 7 ∧
      (t.ctx p).pbcur = BitVec.ofNat 15 ((s.ctx p).pbcur.toNat + 1) ∧ t.book = s.book)

/-! ## Tables and registers -/

/-- R49, R50, R51, R562, R563, R754, R755: with SEL naming the reaction table, a `TBLDATA` write lays its four bytes over the staging copy, the reserved bits of an
entry as zero, and leaves the active table alone,
and a read gives the staging copy's bytes; `TBLADDR` advances under AINC. A commit of a legal staging copy makes it active byte for byte, one of an illegal
copy is refused and changes no active byte; a revert restores the basic-derived table. -/
def Obligations.ReactionTableIsEdited : Prop :=
  ∀ (p : Path) (s : State), s.Quiet → s.canRead p = true → s.canWrite p 0x38 = true → s.canWrite p 0x36 = true →
    (s.table 1).commit = false → (s.ctx p).sel = 1 →
    let k := 4 * (s.ctx p).tbladdr.toNat
    (∀ v : Word, k + 4 ≤ 1024 → ∃ t, exec (.tbldataWrite (.word p v)) s = .next t ∧
      (∀ j, j < 4 → (t.table 1).stagingByte 1 (k + j) =
        if k % 8 = 0 then BitVec.ofNat 8 (v.toNat / 256 ^ j) &&& ([0xFF, 0x3F, 0x0F, 0x03][j]?).getD 0 else 0) ∧
      (∀ x, x < k ∨ k + 4 ≤ x → (t.table 1).stagingByte 1 x = (s.table 1).stagingByte 1 x) ∧ (∀ x, t.reactByte x = s.reactByte x) ∧
      (t.ctx p).tbladdr = (if (s.ctx p).ainc then (s.ctx p).tbladdr + 1 else (s.ctx p).tbladdr) ∧ t.dram = s.dram) ∧
    (k + 4 ≤ 1024 → ∃ t, exec (.tbldataRead p) s = .next t ∧
      (t.ctx p).rdata = BitVec.ofNat 32 (leNat ((List.range 4).map fun j => (s.table 1).stagingByte 1 (k + j))) ∧
      (t.ctx p).tbladdr = (if (s.ctx p).ainc then (s.ctx p).tbladdr + 1 else (s.ctx p).tbladdr) ∧ t.tables = s.tables) ∧
    (reactOk (fun x => ((s.table 1).stagingByte 1 x).toNat) = true → ∃ t, exec (.tblselCommit p 1) s = .next t ∧
      (∀ x, x < 1024 → t.reactByte x = (s.table 1).stagingByte 1 x) ∧ (t.table 1).refused = false ∧ t.dram = s.dram) ∧
    (reactOk (fun x => ((s.table 1).stagingByte 1 x).toNat) = false → ∃ t, exec (.tblselCommit p 1) s = .next t ∧
      (∀ x, t.reactByte x = s.reactByte x) ∧ (t.table 1).refused = true ∧ t.dram = s.dram) ∧
    ∃ t, exec (.tblselRevert p 1) s = .next t ∧ (∀ x, t.reactByte x = reactDerived s.reactCfg x) ∧ t.dram = s.dram

/-- R15, R729, R730, R731, R732, R735, R736, R745, R747, R594, R596, R723: a whole write of `SCRATCH` stores the word; on the management bus a high half waits in the holding register
and the low half completes the word, for every word; a read of a low half keeps the word in the snapshot register, from which
a read of the high half takes its bits. `IRQSTAT` and `FLTSUM` bits are cleared by writing 1.
`IRQEN` takes its bits. An enabled port keeps its ROLE. `FLTINJ` arms in PROVISIONED and is only recorded in FIELD. `TIME_LO` gives the low word of the time and
latches the high one, which `TIME_HI` reads (that each read is at a later time is the model's, log 5). -/
def Obligations.RegistersAreWritten : Prop :=
  ∀ (p : Path) (v : Word) (s : State), s.Quiet →
    (s.canWrite p 0x3B = true → exec (.registerWrite 0x3B (.word p v)) s = .next (s.modDev fun d => { d with scratch := v })) ∧
    (∀ (w : BitVec 6) (hi lo : Half), s.canWrite .bus w.toNat = true →
      exec (.mbWriteHighHalf (BitVec.ofNat 16 (2 * w.toNat + 1)) hi) s = .next (s.modCtx .bus fun c => { c with hold := some (w, hi) }) ∧
      exec (.registerWrite w (.busLow lo)) s = exec (.registerWrite w (.word .bus
          ((match (s.ctx .bus).hold with | some (tag, h) => if tag = w then h else 0 | none => (0 : Half)) ++ lo)))
        (s.modCtx .bus fun c => { c with hold := none })) ∧
    (s.canRead .bus = true → exec (.mbReadLowHalf 0x76) s = .next (s.modCtx .bus fun c => { c with
      snap := some (0x3B, s.dev.scratch), rdata := BitVec.ofNat 32 (s.dev.scratch.toNat % 65536) })) ∧
    (∀ (w : BitVec 6) (x : Word), s.canRead .bus = true → (s.ctx .bus).snap = some (w, x) →
      exec (.mbReadLowHalf (BitVec.ofNat 16 (2 * w.toNat + 1))) s = .next (s.modCtx .bus fun c => { c with rdata := BitVec.ofNat 32 (x.toNat / 65536) })) ∧
    (s.canWrite p 0x06 = true → exec (.registerWrite 0x06 (.word p v)) s =
      .next (s.modDev fun d => { d with irqstat := d.irqstat &&& ~~~ (v.setWidth 11) })) ∧
    (s.canWrite p 0x07 = true → ∃ t, exec (.irqenWrite (.word p v)) s = .next t ∧ t.dev.irqen = v.setWidth 11 ∧ t.dev.irqstat = s.dev.irqstat ∧
      t.dram = s.dram ∧ t.queues = s.queues) ∧
    (s.canWrite p 0x1A = true → ∃ t, exec (.fltsumWrite (.word p v)) s = .next t ∧
      t.bell = { s.bell with fltsum := s.bell.fltsum &&& ~~~ (v.setWidth 8) } ∧ t.dev = s.dev ∧ t.dram = s.dram ∧
      (t.pins = if v.setWidth 8 &&& fsAlert ≠ 0 ∧ s.pins.alertMin = false then { s.pins with alertLow := false } else s.pins)) ∧
    (s.canWrite p 0x2A = true → (s.ctx p).portsel.toNat < 8 → (s.port (s.ctx p).portsel.toNat).en = true → bitOf v.toNat 0 = true →
      ∃ t, exec (.portcfgWrite (.word p v)) s = .next t ∧ (t.port (s.ctx p).portsel.toNat).role = (s.port (s.ctx p).portsel.toNat).role ∧
        (t.port (s.ctx p).portsel.toNat).en = true ∧ (∀ m, m ≠ (s.ctx p).portsel.toNat → t.port m = s.port m) ∧ t.peers = s.peers) ∧
    (s.canWrite p 0x1D = true →
      (s.sec.lc = 0x3 → bitsOf v.toNat 3 0 = 1 → bitsOf v.toNat 9 4 < 24 → bitsOf v.toNat 23 16 ≠ 0 →
        exec (.fltinjWrite (.word p v)) s = .next (s.modBell fun b => { b with
          injTarget := 1, injUnit := BitVec.ofNat 6 (bitsOf v.toNat 9 4), injBits := bitOf v.toNat 10
          injCount := BitVec.ofNat 8 (bitsOf v.toNat 23 16), injLeft := BitVec.ofNat 8 (bitsOf v.toNat 23 16), injArmed := true })) ∧
      (s.sec.lc = 0x5 → s.BookRoom → ∃ t r, exec (.fltinjWrite (.word p v)) s = .next t ∧ t.bell = s.bell ∧
        t.book = { s.book with buf := s.book.buf ++ [r] } ∧ r.code = 0x0205 ∧ r.p0 = v)) ∧
    (s.canRead p = true → ∃ t, exec (.timeLoRead p) s = .next t ∧ (t.ctx p).rdata = BitVec.ofNat 32 s.now ∧
      (t.ctx p).tlatch = BitVec.ofNat 32 (s.now / 2 ^ 32) ∧ t.dev.time = BitVec.ofNat 64 s.now ∧ t.dram = s.dram) ∧
    s.wordValue p 0x2F = (s.ctx p).tlatch

/-! ## Device control, resets and power -/

/-- R735, R622, R624, R647, R709, R772: with no ring entry held, `DEVCTL.RUN` takes its bit; `PSREQ` 1 in ACTIVE makes the part IDLE and 0 in IDLE ACTIVE, and 2 and 3 are
kept as a request; PROFILE takes its value; SERVICE takes its bit in PROVISIONED and RETURN and changes nothing in FIELD; WRST asks for a warm reset, as WRST_N low for
1 µs does, and WRST_N low for less than 100 ns does not. -/
def Obligations.DeviceIsControlled : Prop :=
  (∀ (p : Path) (s : State), s.Quiet → s.canWrite p 0x04 = true → s.NoHeld →
    (∀ on, exec (.devctlRun p on) s = .next (s.modDev fun d => { d with run := on })) ∧
    (s.dev.pstate = psActive → exec (.devctlPsreq p 1) s =
      .next ((s.modDev fun d => { d with psreq := 1, pstate := psIdle }).modPower fun w => { w with request := none })) ∧
    (s.dev.pstate = psIdle → s.Healthy → ∃ t, exec (.devctlPsreq p 0) s = .next t ∧ t.dev = { s.dev with psreq := 0, pstate := psActive } ∧
      t.power = { s.power with request := none } ∧ t.dram = s.dram ∧ t.slots = s.slots ∧ t.queues = s.queues ∧ t.ledger = s.ledger ∧
      t.windows = s.windows ∧ t.book = s.book) ∧
    (∀ v : BitVec 2, s.dev.pstate = psActive → 2 ≤ v.toNat → exec (.devctlPsreq p v) s =
      .next ((s.modDev fun d => { d with psreq := v }).modPower fun w => { w with request := some v })) ∧
    (∀ v, exec (.devctlProfile p v) s = .next (s.modDev fun d => { d with profile := v })) ∧
    (∀ on, (s.sec.lc = 0x3 ∨ s.sec.lc = 0x9) → exec (.devctlService p on) s = .next (s.modDev fun d => { d with service := on })) ∧
    (∀ on, s.sec.lc = 0x5 → exec (.devctlService p on) s = .next s) ∧
    exec (.devctlWrst p) s =
      .next ((s.modDev fun d => { d with wrst := true }).modPower fun w => { w with wrstReq := some (w.wrstReq.getD 1) })) ∧
  ∀ (ns : Nat) (s : State), s.Quiet → s.dev.bootok = true → s.dev.pstate = psActive → s.pins.thermtrip = false → s.power.wrstReq = none →
    (1000 ≤ ns → exec (.wrstN ns) s = .next (s.modPower fun w => { w with wrstReq := some 0 })) ∧
    (ns < 100 → exec (.wrstN ns) s = .next s) ∧
    ∃ t, exec (.wrstN ns) s = .next t ∧ (t.power.wrstReq = some 0 ∨ t.power.wrstReq = none) ∧ t.dev = s.dev ∧ t.dram = s.dram

/-- R483, R484, R340, R485, R490, R681, R772, R673: a warm reset keeps DRAM, the Ledger and the Barns, and the Stook of an engine not in COMPUTE, ends the Tally's slots and closes every window, and leaves recovery to be
done; recovery of a Ledger without entries ends it, with admission open and IRQSTAT.RECOV set. PORST_N asserted clears DRAM, the Ledger, the queues and the windows and keeps
fuses, stored keys and the Parish Book region; released, it takes DEVADDR, and a part that boots is ACTIVE under the next EPOCH, 0 skipped. -/
def Obligations.ResetsKeepAndLose : Prop :=
  (∀ (s : State) (c : Nat), s.Quiet → s.Healthy → Tab.wf {} s.engines = true → s.power.wrstReq = some c → s.dev.pstate = psActive → s.dev.bootok = true →
    s.pins.thermtrip = false → s.sec.busy = false → s.bell.lostTables = [] →
    ∃ t, exec .warmReset s = .next t ∧ t.dram = s.dram ∧ t.ledger = s.ledger ∧ t.mirror = s.mirror ∧ t.jobs = s.jobs ∧
      (∀ n, (t.eng n).barn = (s.eng n).barn ∧ ((s.eng n).inPhase .compute = none → (t.eng n).stook = (s.eng n).stook) ∧ (t.eng n).claims = []) ∧ t.slots = [] ∧
      (∀ n w, (t.window n w).st = .closed) ∧ t.power.recovering = true ∧ t.dev.rdone = false ∧ t.dev.halted = false ∧ t.power.wrstReq = none ∧
      t.sec.debug = 0) ∧
  (∀ s : State, s.Quiet → s.Healthy → s.power.recovering = true → s.dev.bootok = true → s.dev.pstate = psActive → s.pins.thermtrip = false →
    s.ledger = [] → s.mirror = [] → s.jobs = [] → (∀ q, q < 32 → (s.queue q).en = false) → (s.table 4).expert = false →
    ∃ t, exec .recovery s = .next t ∧ t.power.recovering = false ∧ t.dev.rdone = true ∧ t.dev.wrst = false ∧ t.bell.inReset = false ∧
      t.dev.irqstat &&& irqRecov ≠ 0 ∧ t.dram = s.dram ∧ t.ledger = []) ∧
  (∀ s : State, s.book.flushing = false → s.book.erasing = false →
    ∃ t, exec .porstNAsserted s = .next t ∧ t.dev.pstate = psBooting ∧ t.dev.bootok = false ∧ t.dram = [] ∧ t.ledger = [] ∧ t.queues = [] ∧
      t.windows = [] ∧ t.sec.lc = s.sec.lc ∧ t.sec.svf = s.sec.svf ∧ t.sec.okh = s.sec.okh ∧ t.sec.ownerKey = s.sec.ownerKey ∧
      t.sec.storedEpoch = s.sec.storedEpoch ∧ t.book.region = s.book.region ∧ t.book.regn = s.book.regn ∧ t.pending = s.pending) ∧
  ∀ (bs : BitVec 2) (da : BitVec 6) (s : State), s.power.inhibit = false → s.power.brownout = false →
    ∃ t, exec (.porstN bs da) s = .next t ∧ t.dev.id = da ∧ t.sec.bootsel = bs ∧ t.dram = [] ∧ t.ledger = [] ∧ t.sec.lc = s.sec.lc ∧
      t.sec.svf = s.sec.svf ∧ (t.dev.bootok = true → t.dev.pstate = psActive ∧ t.sec.storedEpoch = t.dev.epoch ∧
        t.dev.epoch = if s.sec.storedEpoch + 1 = 0 then 1 else s.sec.storedEpoch + 1)

/-- R624-R629, R631, R636-R638: a STANDBY or WATCH request without an unmet condition and without a tile at work takes the part there at once; DRAM is kept in STANDBY and
lost in WATCH, the Barns are lost in both. An enabled WAKE_IN of at least 1 µs, a running wake timer and a TC10 wake of a port start the exit from STANDBY, each with its
WAKESRC bit; a shorter WAKE_IN does nothing. The restore brings up engines cleared, and its last step makes the part ACTIVE with IRQSTAT.WAKE. -/
def Obligations.PowerStatesChange : Prop :=
  (∀ s : State, s.Quiet → s.Healthy → s.dev.pstate = psActive → s.slotsFree = true → s.sec.debug = 0 → s.sec.attestWait = false → s.psblk = 0 → s.NoHeld →
    (s.power.request = some 2 → ∃ t, exec .standbyEntry s = .next t ∧ t.dev.pstate = psStandby ∧ t.power.request = none ∧
      (∀ n, (t.eng n).barn = {}) ∧ t.dram = s.dram ∧ t.ledger = s.ledger ∧ t.queues = s.queues) ∧
    (s.power.request = some 3 → ∃ t, exec .watchEntry s = .next t ∧ t.dev.pstate = psWatch ∧ t.power.request = none ∧
      (∀ n, (t.eng n).barn = {}) ∧ t.dram = [] ∧ t.sec.regions = [] ∧ t.sec.svf = s.sec.svf)) ∧
  (∀ s : State, s.Quiet → s.dev.pstate = psStandby → s.NoHeld →
    (∀ ns, 1000 ≤ ns → s.power.wakeen.getLsbD wkPin = true → ∃ t, exec (.wakeIn ns) s = .next t ∧ t.dev.pstate = psRestoring ∧
      t.power.restoreFrom = psStandby ∧ t.power.wakesrc = s.power.wakesrc ||| (1#7 <<< wkPin) ∧ t.dram = s.dram ∧ t.engines = s.engines) ∧
    (∀ ns, ns < 1000 → exec (.wakeIn ns) s = .next s) ∧
    (s.power.wtimer ≠ 0 → s.power.wakeen.getLsbD wkTimer = true → ∃ t, exec .wakeTimerExpiry s = .next t ∧ t.dev.pstate = psRestoring ∧
      t.power.restoreFrom = psStandby ∧ t.power.wakesrc = s.power.wakesrc ||| (1#7 <<< wkTimer) ∧ t.dram = s.dram ∧ t.engines = s.engines) ∧
    (∀ n : Fin 8, (s.port n.val).en = true → bitOf (s.port n.val).cfg.toNat 9 = true → s.power.wakeen.getLsbD wkTc10 = true →
      ∃ t, exec (.tc10Wake n) s = .next t ∧ t.dev.pstate = psRestoring ∧ t.power.restoreFrom = psStandby ∧
        t.power.wakesrc = s.power.wakesrc ||| (1#7 <<< wkTc10) ∧ t.dram = s.dram ∧ t.engines = s.engines)) ∧
  ∀ (e : Nat) (s : State), s.Quiet → s.dev.pstate = psRestoring → s.power.restoreFrom = psStandby →
    (restoreEntries false)[s.power.restorePos]? = some e →
    (9 ≤ e → e ≤ 14 → ∃ t, exec .restoreStep s = .next t ∧ t.power.restorePos = s.power.restorePos + 1 ∧ t.dev = s.dev ∧ t.dram = s.dram ∧
      ∀ n, 4 * (e - 9) ≤ n → n < 4 * (e - 9) + 4 → (t.eng n).barn = {} ∧ (t.eng n).stook = []) ∧
    (e = 15 → s.Healthy → s.NoHeld → (∀ k, k < 128 → (s.peer k).heldReqs = []) → s.power.lateReq = none → s.power.debugOnly = false →
      (s.table 2).commit = false → s.sec.attestWait = false →
      ∃ t, exec .restoreStep s = .next t ∧ t.dev.pstate = psActive ∧ t.dev.irqstat &&& irqWake ≠ 0 ∧ t.dram = s.dram ∧ t.ledger = s.ledger)

/-- R607, R632-R634, R641-R645: the loss of a rail makes the part OFF, with DRAM and accepted work lost, and outside WATCH records RAIL_LOST. PFAIL_N low for 200 ns and VAUX below VAUX_PF
make the one PFAIL record of their armed period, start its flush and store the operating counts; the release arms again where VAUX is good. The inhibit stops any flush and drives both
FLT pins low; VAUX_OK releases it. A brown-out of the Hearth holds the part in reset with its fuses; VHRT_OK ends it and the BROWNOUT record follows the reboot. -/
def Obligations.SuppliesFailAndReturn : Prop :=
  (∀ (m : BitVec 4) (s : State), s.Quiet → s.Healthy → m ≠ 0 →
    (s.dev.pstate = psActive → s.BookRoom → s.sec.debug = 0 → ∃ t r, exec (.railLost m) s = .next t ∧ t.dev.pstate = psOff ∧ t.dram = [] ∧ t.ledger = [] ∧
      t.book.buf = s.book.buf ++ [r] ∧ r.code = 0x0304 ∧ r.p0 = BitVec.ofNat 32 m.toNat ∧ t.sec.svf = s.sec.svf) ∧
    (s.dev.pstate = psWatch → ∃ t, exec (.railRemovalInWatch m) s = .next t ∧ t.dev.pstate = psOff ∧ t.dram = [] ∧ t.ledger = [] ∧
      t.sec.svf = s.sec.svf)) ∧
  (∀ s : State, s.Quiet → s.book.pfailArmed = true → s.book.full = false → s.book.erasing = false → s.book.flushing = false → s.power.inhibit = false →
    (∀ ns, 200 ≤ ns → s.power.pfail = false → ∃ t r, exec (.pfailN ns) s = .next t ∧ t.power.pfail = true ∧ t.book.buf = s.book.buf ++ [r] ∧
      r.code = 0x0300 ∧ r.p0 = 0 ∧ t.book.flushing = true ∧ t.book.pfailArmed = false ∧ t.sec.storedOpsecs = s.dev.opsecs ∧
      t.sec.storedPcycles = s.dev.pcycles ∧ t.dram = s.dram) ∧
    (s.power.belowPF = false → ∃ t r, exec .vauxPf s = .next t ∧ t.power.belowPF = true ∧ t.book.buf = s.book.buf ++ [r] ∧
      r.code = 0x0300 ∧ r.p0 = 1 ∧ t.book.flushing = true ∧ t.book.pfailArmed = false ∧ t.dram = s.dram)) ∧
  (∀ s : State, s.Quiet →
    (s.power.pfail = true → ∃ t, exec .pfailNRelease s = .next t ∧ t.power.pfail = false ∧
      t.book = { s.book with pfailArmed := s.book.pfailArmed || s.power.vauxWasOk } ∧ t.dram = s.dram) ∧
    (s.power.inhibit = false → ∃ t, exec .vauxInh s = .next t ∧ t.power.inhibit = true ∧ t.fltPins = (false, false) ∧ t.book.flushing = false ∧
      t.book.erasing = false ∧ t.dram = s.dram ∧ t.ledger = s.ledger) ∧
    (s.power.inhibit = true → s.power.bootHeld = false → s.power.nvCut = none → s.book.buf = [] →
      ∃ t, exec .vauxOk s = .next t ∧ t.power.inhibit = false ∧ t.power.belowPF = false ∧ t.power.vauxWasOk = true ∧ t.book.pfailArmed = (s.book.pfailArmed || !s.power.pfail) ∧
        t.dram = s.dram)) ∧
  ∀ s : State,
    (∃ t, exec .hearthBrownout s = .next t ∧ t.power.brownout = true ∧ t.power.lastbo = true ∧ t.dev.pstate = psBooting ∧ t.dev.bootok = false ∧ t.dram = [] ∧
      t.ledger = [] ∧ t.sec.lc = s.sec.lc ∧ t.sec.svf = s.sec.svf) ∧
    (s.power.brownout = true → s.power.inhibit = false → s.book.regn < 16383 → s.book.erasing = false →
      ∃ t r, exec .vhrtOk s = .next t ∧ t.power.brownout = false ∧ t.power.lastbo = true ∧ t.book.buf.getLast? = some r ∧ r.code = 0x0301 ∧
        t.sec.lc = s.sec.lc ∧ t.sec.svf = s.sec.svf)

/-- R647-R652, R766: an estimate over the limit of the profile takes the power ceiling down one step, and the hundredth in a row below 95 % of it takes it up one step. TJ at or above
the throttle threshold of the grade takes the thermal ceiling down one step, to 1 GHz at least, and TJ 3 °C below it or less up one step. On a -X part, TJ above 105 °C derates until it is at 103 °C. The trip at
120 °C drives THERMTRIP_N, clears every Barn and makes a record. -/
def Obligations.LimitsAreHeld : Prop :=
  ∀ s : State, s.Quiet → s.Healthy → s.dev.pstate = psActive → s.pins.thermtrip = false →
    (∀ a b v, profileLimit s.dev.profile.toNat < b → 10 < s.power.powerCeil → ∃ t, exec (.powerEstimate a b v) s = .next t ∧
      t.power = { s.power with est := BitVec.ofNat 9 (min 511 b), powerCeil := s.power.powerCeil - 1, lowRun := 0 } ∧ t.dram = s.dram ∧ t.dev = s.dev) ∧
    (∀ a b v, 10 * a ≤ 12 * profileLimit s.dev.profile.toNat → 100 * b < 95 * profileLimit s.dev.profile.toNat → v ≤ 200 → 99 ≤ s.power.lowRun →
      ∃ t, exec (.powerEstimate a b v) s = .next t ∧ t.power = { s.power with
        est := BitVec.ofNat 9 (min 511 b), powerCeil := min 26 (s.power.powerCeil + 1), floorGroups := 0, lowRun := 0 } ∧ t.dram = s.dram ∧ t.dev = s.dev) ∧
    (∀ tj : Int, (if Config.gradeX then 110 else 100) ≤ tj → ∃ t, exec (.thermalStep tj) s = .next t ∧ t.power.thermCeil = max 10 (s.power.thermCeil - 1) ∧ t.power.tj = tj ∧
      t.dram = s.dram) ∧
    (∀ tj : Int, tj + 3 ≤ (if Config.gradeX then 110 else 100) → ∃ t, exec (.thermalStep tj) s = .next t ∧ t.power.thermCeil = min 26 (s.power.thermCeil + 1) ∧ t.power.tj = tj ∧ t.dram = s.dram) ∧
    (∀ tj : Int, ∃ t, exec (.thermalDerate tj) s = .next t ∧ t.power.tj = tj ∧ t.power.tjmax = max s.power.tjmax tj ∧ t.dev = s.dev ∧
      t.power.derate = (if Config.gradeX = true ∧ 105 < tj then true else if Config.gradeX = true ∧ tj ≤ 103 then false else s.power.derate)) ∧
    ∀ tj : Int, 120 ≤ tj → s.BookRoom → ∃ t r, exec (.thermtrip tj) s = .next t ∧ t.pins.thermtrip = true ∧ (∀ n, (t.eng n).barn = {}) ∧
      t.book.buf = s.book.buf ++ [r] ∧ r.code = 0x0303 ∧ t.dev.pstate = s.dev.pstate

/-! ## The Watch and the auxiliary inputs -/

/-- R665, R666, R653-R656, R659, R561, R575: a Watch run is counted, changes no byte of DRAM and clears no trigger. A TDM frame at an input that captures makes it synchronised, and appends each captured
slot's sample to the Watch's samples of that channel; an SPI transaction of the configured length appends its words. Sync loss, and a transaction that does not end, stop the stream
that the input feeds, as their class S reports' action says. -/
def Obligations.WatchAndInputs : Prop :=
  (∀ s : State, s.Quiet → s.power.wen = true → s.watch.active = true → s.dev.pstate ≠ psOff → s.NoHeld →
    ∃ t, exec .watchRun s = .next t ∧ t.ctr 13 0 0 = s.ctr 13 0 0 + 1 ∧ t.dram = s.dram ∧ t.ledger = s.ledger ∧ t.queues = s.queues ∧ s.watch.trig &&& t.watch.trig = s.watch.trig) ∧
  (∀ (i : Fin 4) (slots : List Word) (s : State), s.Quiet → s.capturing (8 + i.val) = true → s.dev.pstate ≠ psOff → s.auxStreams 2 i.val = [] →
    ∃ t, exec (.tdmFrame i slots) s = .next t ∧ (t.port (8 + i.val)).sync = true ∧ t.dram = s.dram ∧
      ∀ k, k ∈ tdmSlots (s.port (8 + i.val)).cfg.toNat → Tab.get [] t.watch.hist (16 * i.val + k) =
        Tab.get [] s.watch.hist (16 * i.val + k) ++ [tdmSample (s.port (8 + i.val)).cfg.toNat (slots[k]?.getD 0)]) ∧
  (∀ (c : Fin 2) (bytes : List Byte) (s : State), s.Quiet → s.capturing (12 + c.val) = true → s.dev.pstate ≠ psOff →
    bytes.length = bitsOf (s.port (12 + c.val)).cfg.toNat 12 8 + 1 → s.auxStreams 3 c.val = [] →
    ∃ t, exec (.spiTransaction c bytes) s = .next t ∧ t.dram = s.dram ∧ t.ports = s.ports ∧
      ∀ k, k < 16 → k < (spiWords bytes).length → Tab.get [] t.watch.hist (16 * (4 + c.val) + k) =
        Tab.get [] s.watch.hist (16 * (4 + c.val) + k) ++ [(spiWords bytes)[k]?.getD 0]) ∧
  ∀ (s : State) (st : Nat), s.Quiet → s.Healthy → s.BellCalm → s.dev.pstate ≠ psOff → st < 16 → (s.stream st).stopped = false →
    (∀ i : Fin 4, s.capturing (8 + i.val) = true → (s.port (8 + i.val)).sync = true → s.auxStreams 2 i.val = [st] →
      ∃ t, exec (.tdmSyncLoss i) s = .next t ∧ (t.stream st).stopped = true ∧ t.bell.fstate = .fault ∧ t.dram = s.dram) ∧
    ∀ c : Fin 2, s.capturing (12 + c.val) = true → s.auxStreams 3 c.val = [st] →
      ∃ t, exec (.auxSpiTimeout c) s = .next t ∧ (t.stream st).stopped = true ∧ t.bell.fstate = .fault ∧ t.dram = s.dram

/-! ## Security -/

/-- R688, R691-R694, R684, R698, R706-R708, R711: a token operation whose tests all pass: BOOKCLR gives the clear authority, POLICY stores the policy, SETCAK stores a wrapped CAK, ROLLFWD
raises the anti-rollback count to ARG, LIFECYCLE leaves the part in the state its purpose names with DRAM cleared, and OPEN, with no window open and no tile at work,
opens the debug state its purpose names with every Barn zero. Where a test fails, RESULT is that of a failed test and nothing that the token guards changes.
(Which tests pass rests on the signature check, which Config leaves open.) -/
def Obligations.TokensGuardOperations : Prop :=
  ∀ (p : Path) (s : State), s.Quiet → s.MayOperate p →
    let fl := fun (op : Nat) (ps : List Nat) => (s.begun op).tokenFails ((s.begun op).token 0) ps
    let t0 := s.token 0
    let inh : List Nat := if s.nvBlocked then [arInhibit] else []
    let fClr := fl 0x0B [11]
    let fPol := fl 0x0A [10] ++ ((if 4 ≤ fld t0.payload 0 8 then [arFormat] else []) ++ inh)
    let fCak := fl 0x09 [9] ++ ((if fld t0.payload 48 1 = 0 ∨ 16 < fld t0.payload 48 1 then [arFormat] else []) ++ inh)
    let fRoll := fl 0x08 [8] ++ ((if s.dev.bootSvn.toNat < t0.arg then [arRollback] else if t0.arg < s.dev.bootSvn.toNat then [arFormat] else []) ++ inh)
    let fLife := fl 0x05 [3, 4, 5, 7] ++ ((s.begun 0x05).consentFails t0 ++ (if s.dev.run || s.usedEntries ≠ 0 || s.anyWindow then [arBusy] else []) ++ inh)
    let fOpen := fl 0x03 [1, 2] ++ (if t0.purpose = 1 && (s.policyNow.getD 0).getLsbD 1 then [arPolicy] else [])
    (fClr = [] → ∃ t, exec (.bookclr p) s = .next t ∧ t.sec.clrauth = true ∧ t.sec.result = 0 ∧ t.sec.busy = false ∧ t.dram = s.dram) ∧
    (fClr ≠ [] → ∃ t, exec (.bookclr p) s = .next t ∧ s.TokenFailed t fClr) ∧
    (fPol = [] → ∃ t, exec (.policy p) s = .next t ∧ t.sec.policy = some (BitVec.ofNat 64 (fld t0.payload 0 8)) ∧ t.sec.result = 0 ∧ t.dram = s.dram) ∧
    (fPol ≠ [] → ∃ t, exec (.policy p) s = .next t ∧ s.TokenFailed t fPol) ∧
    (fCak = [] → ∃ t, exec (.setcak p) s = .next t ∧ t.sec.cak.isSome = true ∧ t.sec.result = 0 ∧ t.dram = s.dram) ∧
    (fCak ≠ [] → ∃ t, exec (.setcak p) s = .next t ∧ s.TokenFailed t fCak) ∧
    (fRoll = [] → ∃ t, exec (.rollfwd p) s = .next t ∧ t.sec.svf = max s.sec.svf t0.arg ∧ t.sec.result = 0 ∧ t.dram = s.dram) ∧
    (fRoll ≠ [] → ∃ t, exec (.rollfwd p) s = .next t ∧ s.TokenFailed t fRoll) ∧
    (fLife = [] → ∃ t, exec (.lifecycle p) s = .next t ∧ t.sec.lc = BitVec.ofNat 4 (lcTarget t0.purpose) ∧ t.sec.svf = s.sec.svf ∧ t.dram = []) ∧
    (fLife ≠ [] → ∃ t, exec (.lifecycle p) s = .next t ∧ s.TokenFailed t fLife) ∧
    (fOpen = [] → (s.windows.any fun w => w.2.st != .closed) = false → (s.engines.any fun e => !e.2.claims.isEmpty) = false →
      ∃ t, exec (.openDebug p) s = .next t ∧ t.sec.debug = BitVec.ofNat 2 t0.purpose ∧ (∀ n, (t.eng n).barn = {}) ∧ t.sec.result = 0) ∧
    (fOpen ≠ [] → ∃ t, exec (.openDebug p) s = .next t ∧ s.TokenFailed t fOpen)

/-- R688-R690, R694-R696, R700, R703, R689, R712, R685, R734: CHALLENGE gives a nonce and the UID; ATTEST in PROVISIONED and FIELD puts a report with version 1 and the lifecycle state at byte 0. CLOSE closes an
open debug state and is a STATE error without one. VERIFY outside FIELD is a STATE error; inside it, a good signature under the owner's key records the region at the lowest free index, which byte 0 then
holds, and without one none is recorded; RELEASE empties its region. UPDATE never touches the booted slot, the anti-rollback count or DRAM, and a good image for the
other slot is written there; STORE copies DRAM bytes to a user area. CLRAUTH ends after 1 s. OPSECS is saved. -/
def Obligations.SecurityOperationsEnd : Prop :=
  (∀ (p : Path) (s : State), s.Quiet → s.MayOperate p →
    (∃ t, exec (.challenge p) s = .next t ∧ t.sec.nonce.isSome = true ∧ t.secBytes 32 16 = leBytes 16 Config.uid.toNat ∧ t.sec.busy = false ∧ t.sec.result = 0 ∧ t.dram = s.dram ∧
      t.dev.irqstat &&& irqAuth ≠ 0) ∧
    ((s.sec.lc = 0x3 ∨ s.sec.lc = 0x5) → ∃ t, exec (.attest p) s = .next t ∧ t.sec.busy = false ∧ t.sec.result = 0 ∧ t.dram = s.dram ∧
      t.secBytes 0 2 = [1, BitVec.ofNat 8 s.sec.lc.toNat] ∧
      t.sec.nonce = s.sec.nonce ∧ t.sec.lc = s.sec.lc) ∧
    (s.sec.debug ≠ 0 → ∃ t, exec (.closeDebug p) s = .next t ∧ t.sec.debug = 0 ∧ t.sec.result = 0 ∧ t.sec.busy = false ∧ t.dram = s.dram) ∧
    (s.sec.debug = 0 → ∃ t, exec (.closeDebug p) s = .next t ∧ t.sec.debug = 0 ∧ t.sec.result.toNat = arState ∧ t.sec.busy = false) ∧
    (s.sec.lc ≠ 0x5 → ∃ t, exec (.verify p) s = .next t ∧ t.sec.result.toNat = arState ∧ t.sec.regions = s.sec.regions ∧ t.dram = s.dram) ∧
    (s.Healthy → s.sec.lc = 0x5 → s.pins.thermtrip = false → ∃ t, exec (.verify p) s = .next t ∧ t.sec.busy = false ∧ t.dram = s.dram ∧
      (t.sec.regions ≠ s.sec.regions → t.sec.result = 0 ∧ ∃ k, s.ownerKeyNow = some k)) ∧
    (∀ (k : List Byte) (i : Nat),
      let a := leNat (s.secBytes 0 6)
      let h := s.bytes a 64
      let len := fld h 8 4
      s.Healthy → s.sec.lc = 0x5 → s.pins.thermtrip = false → a % 4096 = 0 → inDram a (4096 + len + 16224) = true → fld h 0 1 = 1 → fld h 1 7 = 0 →
      fld h 12 52 = 0 → i < 16 → (∀ j, j < i → Tab.get none s.sec.regions j ≠ none) → Tab.get none s.sec.regions i = none → s.ownerKeyNow = some k →
      Config.slhVerify k (h ++ s.bytes (a + 4096) len) (s.bytes (a + 4096 + len) 16224) = true →
      ∃ t, exec (.verify p) s = .next t ∧ t.sec.result = 0 ∧ t.sec.busy = false ∧ t.secBytes 0 1 = [BitVec.ofNat 8 i] ∧
        t.sec.regions = Tab.set none s.sec.regions i (some (BitVec.ofNat 48 (a + 4096), BitVec.ofNat 32 len)) ∧ t.dram = s.dram) ∧
    (leNat (s.secBytes 0 1) < 16 → ∃ t, exec (.release p) s = .next t ∧ t.sec.result = 0 ∧
      t.sec.regions = Tab.set none s.sec.regions (leNat (s.secBytes 0 1)) none ∧ t.dram = s.dram) ∧
    (s.Healthy → ∃ t, exec (.update p) s = .next t ∧ t.sec.busy = false ∧ (s.dev.bootSlot = 0 → t.sec.slotA = s.sec.slotA) ∧
      (s.dev.bootSlot = 1 → t.sec.slotB = s.sec.slotB) ∧ t.sec.svf = s.sec.svf ∧ t.dram = s.dram) ∧
    (let a := leNat (s.secBytes 0 6)
     let f := fun x => if inDram (a + x) 1 then s.byte (a + x) else 0
     let n := 0x4000 + leNat (imgBytes f 4 4)
     let b : BootSlot := { factory := false, bytes := Mem.setBytes 0xFF [] 0 (imgBytes f 0 n) }
     s.Healthy → s.pins.thermtrip = false → s.nvBlocked = false → inDram a n = true → imageResult f s.sec.svf = 0 →
      (Config.updateSlot (s.secBytes 0 64) % 2 = 0 → s.dev.bootSlot = 1 → ∃ t, exec (.update p) s = .next t ∧ t.sec.slotA = b ∧ t.sec.slotB = s.sec.slotB ∧
        t.sec.result = 0 ∧ t.dram = s.dram) ∧
      (Config.updateSlot (s.secBytes 0 64) % 2 = 1 → s.dev.bootSlot = 0 → ∃ t, exec (.update p) s = .next t ∧ t.sec.slotB = b ∧ t.sec.slotA = s.sec.slotA ∧
        t.sec.result = 0 ∧ t.dram = s.dram)) ∧
    (let a := leNat (s.secBytes 0 6)
     let x := leNat (s.secBytes 8 4)
     let n := leNat (s.secBytes 12 4)
     s.Healthy → s.lcWork = true → s.pins.thermtrip = false → s.nvBlocked = false → inDram a n = true → inUser x n = true →
      ∃ t, exec (.store p) s = .next t ∧ t.sec.result = 0 ∧ t.dram = s.dram ∧ ∀ i, i < n → Tab.get 0xFF t.sec.user (x + i) = s.byte (a + i))) ∧
  ∀ s : State, s.Quiet →
    exec .clrauthExpiry s = .next (s.modSec fun c => { c with clrauth := false }) ∧
    ∀ w : Word, s.power.inhibit = false → ∃ t, exec (.opsecsSave w) s = .next t ∧ t.dev = { s.dev with opsecs := w } ∧
      t.sec = { s.sec with storedOpsecs := w, storedPcycles := s.dev.pcycles } ∧ t.dram = s.dram ∧ t.ledger = s.ledger

/-- R713, R714: IDCODE shifts out the identification of the part; an instruction that the debug state does not admit acts as BYPASS, and changes the instruction register alone; a halt of the
Reeve in OPEN-FULL halts it; TRST_N brings IDCODE back and returns the pins. One step of a halted Reeve, whose firmware the spec does not give, is refused. -/
def Obligations.TapObeysTheDebugState : Prop :=
  ∀ s : State, s.Quiet → s.dev.pstate ≠ psOff →
    (∃ t, exec (.tapInstruction 0x02 .none) s = .next t ∧ (t.ctx .tap).rdata = 0x16C244B5 ∧ t.sec.tapIr = 0x02 ∧ t.dram = s.dram ∧
      t.sec.debug = s.sec.debug) ∧
    (∀ (ir : Byte) (scan : TapScan), s.tapAdmits ir.toNat = false →
      exec (.tapInstruction ir scan) s = .next (s.modSec fun c => { c with tapIr := ir, bscan := false })) ∧
    (s.sec.debug = 2 → exec (.tapInstruction 0x31 (.haltReeve true)) s =
      .next (s.modSec fun c => { c with tapIr := 0x31, bscan := false, reeveHalted := true })) ∧
    (s.sec.debug = 2 → s.sec.reeveHalted = true → exec (.tapInstruction 0x31 .stepReeve) s = .refused .reeveFirmwareStep) ∧
    exec .trstN s = .next (s.modSec fun c => { c with tapIr := 0x02, bscan := false })
end

