-- ==== Sys2Proof/Laws/Seal.lean ====
section
/-! SUPPORT. What almost no operation changes: the queue, the lifecycle state, the anti-rollback count, the mark of the device secret, the SVN of the booted
image and BOOTOK. One law for each operation and each command; the few that do change one of them are in Laws/Life.lean. -/

namespace Sys2Proof.Machine

/-! ## Repetition -/

@[simp] theorem forEach_nil {α : Type} (f : α → State → State) (s : State) : forEach [] f s = s := rfl
@[simp] theorem forEach_cons {α : Type} (a : α) (l : List α) (f : α → State → State) (s : State) :
    forEach (a :: l) f s = forEach l f (f a s) := rfl
theorem forEach_append {α : Type} (l m : List α) (f : α → State → State) (s : State) :
    forEach (l ++ m) f s = forEach m f (forEach l f s) := by simp [forEach]

/-- What each round keeps, the repetition keeps. -/
theorem forEach_ind {α : Type} {P : State → Prop} {l : List α} {f : α → State → State} {s : State}
    (h0 : P s) (h : ∀ a ∈ l, ∀ t, P t → P (f a t)) : P (forEach l f s) := by
  induction l generalizing s with
  | nil => exact h0
  | cons a l ih => exact ih (h a (by simp) s h0) fun b hb => h b (by simp [hb])

/-- A reading that no round changes. -/
theorem forEach_same {α β : Type} {g : State → β} {l : List α} {f : α → State → State} {s : State}
    (h : ∀ a ∈ l, ∀ t, g (f a t) = g t) : g (forEach l f s) = g s :=
  forEach_ind (P := fun t => g t = g s) rfl fun a ha t ht => (h a ha t).trans ht

/-- Rounds that change nothing. -/
theorem forEach_id {α : Type} {l : List α} {f : α → State → State} {s : State} (h : ∀ a ∈ l, f a s = s) : forEach l f s = s := by
  induction l with
  | nil => rfl
  | cons a l ih => rw [forEach_cons, h a (by simp)]; exact ih fun b hb => h b (by simp [hb])

/-! ## The seal -/

/-- The queue, the fuses and what the boot has left. -/
def State.seal (s : State) : List Instr × BitVec 4 × Nat × Bool × BitVec 7 × Bool :=
  (s.pending, s.sec.lc, s.sec.svf, s.sec.dsWritten, s.dev.bootSvn, s.dev.bootok)

/-- The outcome leaves the seal as it was. -/
def Keeps (s : State) (o : Host.Outcome State Fault Refusal) : Prop := ∀ t, o = .next t → t.seal = s.seal

@[simp] theorem keeps_next (s t : State) : Keeps s (.next t) ↔ t.seal = s.seal := by simp [Keeps]
@[simp] theorem keeps_fault (s : State) (f : Fault) : Keeps s (.fault f) := by simp [Keeps]
@[simp] theorem keeps_refused (s : State) (f : Refusal) : Keeps s (.refused f) := by simp [Keeps]
@[simp] theorem seal_ite (c : Prop) [Decidable c] (a b : State) : (if c then a else b).seal = if c then a.seal else b.seal := apply_ite _ _ _ _
@[simp] theorem seal_forEach {α : Type} {l : List α} {f : α → State → State} (h : ∀ a t, (f a t).seal = t.seal) (s : State) : (forEach l f s).seal = s.seal := by
  unfold forEach; induction l generalizing s with
  | nil => rfl
  | cons a l ih => exact (ih _).trans (h a s)
@[simp] theorem State.modDev_seal (s : State) (f : Dev → Dev) (h : (f s.dev).bootSvn = s.dev.bootSvn ∧ (f s.dev).bootok = s.dev.bootok) : (s.modDev f).seal = s.seal := by
  simp [State.seal, State.modDev, h.1, h.2]
@[simp] theorem State.modSec_seal (s : State) (f : Sec → Sec) (h : (f s.sec).lc = s.sec.lc ∧ (f s.sec).svf = s.sec.svf ∧ (f s.sec).dsWritten = s.sec.dsWritten) : (s.modSec f).seal = s.seal := by
  simp [State.seal, State.modSec, h.1, h.2.1, h.2.2]
@[simp] theorem seal_with_passSeq (t : State) (x0 : Nat) : ({ t with passSeq := x0 } : State).seal = t.seal := rfl
@[simp] theorem seal_with_slotSeq (t : State) (x0 : Nat) : ({ t with slotSeq := x0 } : State).seal = t.seal := rfl
@[simp] theorem seal_with_jobs_runs (t : State) (x0 : Tab JobRec) (x1 : Tab JobRun) : ({ t with jobs := x0, runs := x1 } : State).seal = t.seal := rfl
@[simp] theorem seal_with_ledger_mirror_badP_badM_jobs_runs (t : State) (x0 : Tab Entry) (x1 : Tab Entry) (x2 : List Nat) (x3 : List Nat) (x4 : Tab JobRec) (x5 : Tab JobRun) : ({ t with ledger := x0, mirror := x1, badP := x2, badM := x3, jobs := x4, runs := x5 } : State).seal = t.seal := rfl
@[simp] theorem seal_with_ledger_mirror_badP_badM (t : State) (x0 : Tab Entry) (x1 : Tab Entry) (x2 : List Nat) (x3 : List Nat) : ({ t with ledger := x0, mirror := x1, badP := x2, badM := x3 } : State).seal = t.seal := rfl
@[simp] theorem seal_with_badP (t : State) (x0 : List Nat) : ({ t with badP := x0 } : State).seal = t.seal := rfl
@[simp] theorem seal_with_badM (t : State) (x0 : List Nat) : ({ t with badM := x0 } : State).seal = t.seal := rfl
@[simp] theorem seal_with_market (t : State) (x0 : Market) : ({ t with market := x0 } : State).seal = t.seal := rfl
@[simp] theorem seal_with_slices (t : State) (x0 : Tab Slice) : ({ t with slices := x0 } : State).seal = t.seal := rfl
@[simp] theorem seal_with_engines (t : State) (x0 : Tab Engine) : ({ t with engines := x0 } : State).seal = t.seal := rfl
@[simp] theorem seal_with_dram_market (t : State) (x0 : Mem) (x1 : Market) : ({ t with dram := x0, market := x1 } : State).seal = t.seal := rfl
@[simp] theorem seal_foldl {α : Type} {f : State → α → State} (h : ∀ t a, (f t a).seal = t.seal) (l : List α) (s : State) : (l.foldl f s).seal = s.seal := by
  induction l generalizing s with
  | nil => rfl
  | cons a l ih => exact (ih _).trans (h s a)
@[simp] theorem seal_foldl_snd {α β : Type} {f : β × State → α → β × State} (h : ∀ x a, (f x a).2.seal = x.2.seal) (l : List α) (x : β × State) : (l.foldl f x).2.seal = x.2.seal := by
  induction l generalizing x with
  | nil => rfl
  | cons a l ih => exact (ih _).trans (h x a)
theorem seal_snd {α : Type} {x : α × State} {a : α} {t : State} (h : x = (a, t)) : t.seal = x.2.seal := by rw [h]
theorem seal_snd2 {α β : Type} {x : α × β × State} {a : α} {b : β} {t : State} (h : x = (a, b, t)) : t.seal = x.2.2.seal := by rw [h]
@[simp] theorem State.used_seal (s : State) (n : Nat) : (s.used n).seal = s.seal := rfl

@[simp] theorem State.setEng_seal (s : State) (n : Nat) (e : Engine) : (s.setEng n e).seal = s.seal := by simp [State.setEng]
@[simp] theorem State.modEng_seal (s : State) (n : Nat) (f : Engine → Engine) : (s.modEng n f).seal = s.seal := by simp [State.modEng]
@[simp] theorem State.setQueue_seal (s : State) (n : Nat) (q : Queue) : (s.setQueue n q).seal = s.seal := by unfold State.setQueue; rfl
@[simp] theorem State.modQueue_seal (s : State) (n : Nat) (f : Queue → Queue) : (s.modQueue n f).seal = s.seal := by simp [State.modQueue]
@[simp] theorem State.setJob_seal (s : State) (n : Nat) (j : JobRec) : (s.setJob n j).seal = s.seal := by simp [State.setJob]
@[simp] theorem State.modJob_seal (s : State) (n : Nat) (f : JobRec → JobRec) : (s.modJob n f).seal = s.seal := by simp [State.modJob]
@[simp] theorem State.setRun_seal (s : State) (n : Nat) (j : JobRun) : (s.setRun n j).seal = s.seal := by simp [State.setRun]
@[simp] theorem State.modRun_seal (s : State) (n : Nat) (f : JobRun → JobRun) : (s.modRun n f).seal = s.seal := by simp [State.modRun]
@[simp] theorem State.setArea_seal (s : State) (n : Nat) (a : Area) : (s.setArea n a).seal = s.seal := by unfold State.setArea; rfl
@[simp] theorem State.modArea_seal (s : State) (n : Nat) (f : Area → Area) : (s.modArea n f).seal = s.seal := by simp [State.modArea]
@[simp] theorem State.setSlot_seal (s : State) (n : Nat) (a : Slot) : (s.setSlot n a).seal = s.seal := by unfold State.setSlot; rfl
@[simp] theorem State.modSlot_seal (s : State) (n : Nat) (f : Slot → Slot) : (s.modSlot n f).seal = s.seal := by simp [State.modSlot]
@[simp] theorem State.setWindow_seal (s : State) (e w : Nat) (x : Window) : (s.setWindow e w x).seal = s.seal := by unfold State.setWindow; rfl
@[simp] theorem State.modWindow_seal (s : State) (e w : Nat) (f : Window → Window) : (s.modWindow e w f).seal = s.seal := by simp [State.modWindow]
@[simp] theorem State.setSlice_seal (s : State) (n : Nat) (x : Slice) : (s.setSlice n x).seal = s.seal := by simp [State.setSlice]
@[simp] theorem State.modSlice_seal (s : State) (n : Nat) (f : Slice → Slice) : (s.modSlice n f).seal = s.seal := by simp [State.modSlice]
@[simp] theorem State.setCbSlot_seal (s : State) (st i : Nat) (x : CbSlot) : (s.setCbSlot st i x).seal = s.seal := by unfold State.setCbSlot; rfl
@[simp] theorem State.setPort_seal (s : State) (n : Nat) (x : Port) : (s.setPort n x).seal = s.seal := by unfold State.setPort; rfl
@[simp] theorem State.modPort_seal (s : State) (n : Nat) (f : Port → Port) : (s.modPort n f).seal = s.seal := by simp [State.modPort]
@[simp] theorem State.setPeer_seal (s : State) (n : Nat) (x : Peer) : (s.setPeer n x).seal = s.seal := by unfold State.setPeer; rfl
@[simp] theorem State.modPeer_seal (s : State) (n : Nat) (f : Peer → Peer) : (s.modPeer n f).seal = s.seal := by simp [State.modPeer]
@[simp] theorem State.setRx_seal (s : State) (n : Nat) (x : SendRx) : (s.setRx n x).seal = s.seal := by unfold State.setRx; rfl
@[simp] theorem State.setStx_seal (s : State) (n : Nat) (x : SendTx) : (s.setStx n x).seal = s.seal := by unfold State.setStx; rfl
@[simp] theorem State.setStream_seal (s : State) (n : Nat) (x : Stream) : (s.setStream n x).seal = s.seal := by unfold State.setStream; rfl
@[simp] theorem State.modStream_seal (s : State) (n : Nat) (f : Stream → Stream) : (s.modStream n f).seal = s.seal := by simp [State.modStream]
@[simp] theorem State.setTable_seal (s : State) (n : Nat) (x : Table) : (s.setTable n x).seal = s.seal := by unfold State.setTable; rfl
@[simp] theorem State.modTable_seal (s : State) (n : Nat) (f : Table → Table) : (s.modTable n f).seal = s.seal := by simp [State.modTable]
@[simp] theorem State.setCell_seal (s : State) (n : Nat) (x : Option Deposit) : (s.setCell n x).seal = s.seal := by unfold State.setCell; rfl
@[simp] theorem State.setCtx_seal (s : State) (p : Path) (c : Ctx) : (s.setCtx p c).seal = s.seal := by unfold State.setCtx; rfl
@[simp] theorem State.modCtx_seal (s : State) (p : Path) (f : Ctx → Ctx) : (s.modCtx p f).seal = s.seal := by simp [State.modCtx]
@[simp] theorem State.modBell_seal (s : State) (f : Bell → Bell) : (s.modBell f).seal = s.seal := by unfold State.modBell; rfl
@[simp] theorem State.modBook_seal (s : State) (f : Book → Book) : (s.modBook f).seal = s.seal := by unfold State.modBook; rfl
@[simp] theorem State.modPower_seal (s : State) (f : Power → Power) : (s.modPower f).seal = s.seal := by unfold State.modPower; rfl
@[simp] theorem State.modWatch_seal (s : State) (f : Watch → Watch) : (s.modWatch f).seal = s.seal := by unfold State.modWatch; rfl
@[simp] theorem State.modPins_seal (s : State) (f : Pins → Pins) : (s.modPins f).seal = s.seal := by unfold State.modPins; rfl
@[simp] theorem State.write_seal (s : State) (a : Nat) (bs : List Byte) : (s.write a bs).seal = s.seal := by simp [State.write]
@[simp] theorem State.bump_seal (s : State) (g i c n : Nat) : (s.bump g i c n).seal = s.seal := by unfold State.bump; rfl
@[simp] theorem State.bumpFree_seal (s : State) (g i c : Nat) : (s.bumpFree g i c).seal = s.seal := by simp [State.bumpFree]
@[simp] theorem State.tick_seal (s : State) : (s.tick).seal = s.seal := by simp [State.tick]
@[simp] theorem State.emit_seal (s : State) (f : TxFrame) : (s.emit f).seal = s.seal := by unfold State.emit; rfl
@[simp] theorem State.setIrq_seal (s : State) (bits : BitVec 11) : (s.setIrq bits).seal = s.seal := by simp [State.setIrq]
@[simp] theorem State.alert_seal (s : State) : (s.alert).seal = s.seal := by simp [State.alert]
@[simp] theorem State.setFlt_seal (s : State) (bits : Byte) : (s.setFlt bits).seal = s.seal := by simp [State.setFlt]
@[simp] theorem State.clearFlt_seal (s : State) (bits : Byte) : (s.clearFlt bits).seal = s.seal := by simp [State.clearFlt]
@[simp] theorem State.raise_seal (s : State) (r : Report) : (s.raise r).seal = s.seal := by simp [State.raise]
@[simp] theorem State.useInj_seal (s : State) (n : Nat) : (s.useInj n).seal = s.seal := by simp [State.useInj]
@[simp] theorem State.freeEntry_seal (s : State) (e : Nat) : (s.freeEntry e).seal = s.seal := by unfold State.freeEntry; rfl
@[simp] theorem State.dropHoldings_seal (s : State) (e : Nat) : (s.dropHoldings e).seal = s.seal := by simp [State.dropHoldings]
@[simp] theorem State.loseEntry_seal (s : State) (e : Nat) : (s.loseEntry e).seal = s.seal := by simp [State.loseEntry]
@[simp] theorem State.writeEntry_seal (s : State) (e : Nat) (f : Entry → Entry) : (s.writeEntry e f).seal = s.seal := by simp [State.writeEntry]
@[simp] theorem State.serveClaim_seal (s : State) (eng : Fin 24) : (s.serveClaim eng).2.seal = s.seal := by unfold State.serveClaim; (repeat' (first | split | (rename_i h; have := seal_snd h; clear h) | (rename_i h; have := seal_snd2 h; clear h))) <;> simp_all
@[simp] theorem State.releaseSlot_seal (s : State) (i : Nat) : (s.releaseSlot i).seal = s.seal := by simp [State.releaseSlot]
@[simp] theorem State.releaseIfIdle_seal (s : State) (i : Nat) : (s.releaseIfIdle i).seal = s.seal := by simp [State.releaseIfIdle]
@[simp] theorem State.sendRestamps_seal (s : State) (i : Nat) : (s.sendRestamps i).seal = s.seal := by simp [State.sendRestamps]
@[simp] theorem State.signalAvailable_seal (s : State) : (s.signalAvailable).seal = s.seal := by simp [State.signalAvailable]
@[simp] theorem State.advanceEpoch_seal (s : State) (i : Nat) : (s.advanceEpoch i).seal = s.seal := by simp [State.advanceEpoch]
@[simp] theorem State.toRet_seal (s : State) (i : Nat) (ts : List Nat) : (s.toRet i ts).seal = s.seal := by simp [State.toRet]
@[simp] theorem State.returnClaims_seal (s : State) (i : Nat) (p : OpenClaim → Bool) : (s.returnClaims i p).seal = s.seal := by simp [State.returnClaims]
@[simp] theorem State.returnEngine_seal (s : State) (eng : Nat) : (s.returnEngine eng).seal = s.seal := by simp [State.returnEngine]
@[simp] theorem State.withdrawSlot_seal (s : State) (i : Nat) : (s.withdrawSlot i).seal = s.seal := by simp [State.withdrawSlot]
@[simp] theorem State.engineRestamp_seal (s : State) (n slot : Nat) (epoch : BitVec 16) : (s.engineRestamp n slot epoch).seal = s.seal := by simp [State.engineRestamp]
@[simp] theorem State.tallyAnswer_seal (s : State) (n slot : Nat) (epoch : BitVec 16) (keeps : List Nat) : (s.tallyAnswer n slot epoch keeps).seal = s.seal := by simp [State.tallyAnswer]
@[simp] theorem State.flushEnd_seal (s : State) : (s.flushEnd).seal = s.seal := by simp [State.flushEnd]
@[simp] theorem State.flush_seal (s : State) : (s.flush).seal = s.seal := by simp [State.flush]
@[simp] theorem State.addRec_seal (s : State) (r : Rec) : (s.addRec r).seal = s.seal := by simp [State.addRec]
@[simp] theorem State.record_seal (s : State) (code p0 p1 p2 p3 : Nat) : (s.record code p0 p1 p2 p3).seal = s.seal := by simp [State.record]
@[simp] theorem State.pfailRecord_seal (s : State) (trigger : Nat) : (s.pfailRecord trigger).seal = s.seal := by simp [State.pfailRecord]
@[simp] theorem State.programNext_seal (s : State) : (s.programNext).seal = s.seal := by unfold State.programNext; dsimp only; (repeat' split) <;> simp
@[simp] theorem State.programAll_seal (n : Nat) (s : State) : (State.programAll n s).seal = s.seal := by
  induction n generalizing s with
  | zero => rfl
  | succ n ih => unfold State.programAll; split <;> simp [ih]
@[simp] theorem State.cutFlush_seal (s : State) : (s.cutFlush).seal = s.seal := by simp [State.cutFlush]
@[simp] theorem State.loadPbwin_seal (s : State) (p : Path) (i : Nat) : (s.loadPbwin p i).seal = s.seal := by simp [State.loadPbwin]
@[simp] theorem State.startClear_seal (s : State) : (s.startClear).seal = s.seal := by simp [State.startClear]
@[simp] theorem State.eraseEnd_seal (s : State) : (s.eraseEnd).seal = s.seal := by simp [State.eraseEnd]
@[simp] theorem State.swapBooks_seal (s : State) (st : Nat) : (s.swapBooks st).seal = s.seal := by simp [State.swapBooks]
@[simp] theorem State.swapAllBooks_seal (s : State) : (s.swapAllBooks).seal = s.seal := by simp [State.swapAllBooks]
@[simp] theorem State.freeAreas_seal (s : State) (e : Nat) : (s.freeAreas e).seal = s.seal := by simp [State.freeAreas]
@[simp] theorem State.releaseHold_seal (s : State) (e : Nat) : (s.releaseHold e).seal = s.seal := by
  simp only [State.releaseHold, State.swapAllBooks_seal, State.setRun_seal, State.modJob_seal]
  rw [seal_forEach]
  · simp
  · intro n t; split <;> simp
@[simp] theorem State.endCommand_seal (s : State) (e status : Nat) (step : Nat) (ddesc : Nat) (cont : Bool) : (s.endCommand e status step ddesc cont).seal = s.seal := by unfold State.endCommand; dsimp only; (repeat' split) <;> simp
@[simp] theorem State.failCommand_seal (s : State) (e status : Nat) (step : Nat) (ddesc : Nat) : (s.failCommand e status step ddesc).seal = s.seal := by simp [State.failCommand]
@[simp] theorem State.abortQueue_seal (s : State) (q : Nat) : (s.abortQueue q).seal = s.seal := by simp [State.abortQueue]
@[simp] theorem State.stopQueue_seal (s : State) (q : Nat) : (s.stopQueue q).seal = s.seal := by simp [State.stopQueue]
@[simp] theorem State.failSlot_seal (s : State) (i status : Nat) : (s.failSlot i status).seal = s.seal := by simp [State.failSlot]
@[simp] theorem State.dramCheck_seal (s : State) (a n : Nat) : (s.dramCheck a n).2.seal = s.seal := by
  unfold State.dramCheck; split
  · rfl
  · apply seal_foldl_snd; intro x b; dsimp only; split <;> simp
@[simp] theorem State.portCheck_seal (s : State) (e n : Nat) : (s.portCheck e n).2.seal = s.seal := by
  unfold State.portCheck; apply seal_foldl_snd; intro x b; dsimp only; split
  · rfl
  · split <;> simp
@[simp] theorem State.landLine_seal (s : State) (sl line words : Nat) : (s.landLine sl line words).seal = s.seal := by simp [State.landLine]
@[simp] theorem State.checkLine_seal (s : State) (sl set line : Nat) : (s.checkLine sl set line).seal = s.seal := by simp [State.checkLine]
@[simp] theorem State.fillLine_seal (s : State) (sl line cls : Nat) : (s.fillLine sl line cls).seal = s.seal := by simp [State.fillLine]
@[simp] theorem State.readLine_seal (s : State) (cls line : Nat) : (s.readLine cls line).2.seal = s.seal := by unfold State.readLine; dsimp only; (repeat' split) <;> simp
@[simp] theorem State.fabricRead_seal (s : State) (cls a n : Nat) : (s.fabricRead cls a n).2.seal = s.seal := by simp [State.fabricRead]
@[simp] theorem State.touchLines_seal (s : State) (cls a n : Nat) : (s.touchLines cls a n).seal = s.seal := by
  unfold State.touchLines; apply seal_forEach; intro l t; dsimp only; split
  · simp
  · split <;> simp
@[simp] theorem State.fabricWrite_seal (s : State) (cls a : Nat) (bs : List Byte) : (s.fabricWrite cls a bs).seal = s.seal := by simp [State.fabricWrite]
@[simp] theorem State.readBy_seal (s : State) (cls a n : Nat) : (s.readBy cls a n).seal = s.seal := by unfold State.readBy; (repeat' (first | split | (rename_i h; have := seal_snd h; clear h) | (rename_i h; have := seal_snd2 h; clear h))) <;> simp_all
@[simp] theorem State.marketRead_seal (s : State) (a n : Nat) : (s.marketRead a n).2.seal = s.seal := by simp [State.marketRead]
@[simp] theorem State.marketWrite_seal (s : State) (a : Nat) (bs : List Byte) : (s.marketWrite a bs).seal = s.seal := by simp [State.marketWrite]
@[simp] theorem State.dropLines_seal (s : State) (a n : Nat) : (s.dropLines a n).seal = s.seal := by simp [State.dropLines]
@[simp] theorem State.storeProgrammed_seal (s : State) : (s.storeProgrammed).seal = s.seal := by simp [State.storeProgrammed]
@[simp] theorem State.dropAllLines_seal (s : State) : (s.dropAllLines).seal = s.seal := by simp [State.dropAllLines]
@[simp] theorem State.leave_seal (s : State) (n : Nat) (f : TxFrame) : (s.leave n f).seal = s.seal := by simp [State.leave]
@[simp] theorem State.egress_seal (s : State) (n cls : Nat) (f : TxFrame) : (s.egress n cls f).seal = s.seal := by simp [State.egress]
@[simp] theorem State.setGates_seal (s : State) (n : Nat) (g : Byte) : (s.setGates n g).seal = s.seal := by simp [State.setGates]
@[simp] theorem State.txSk_seal (s : State) (f : SkFrame) : (s.txSk f).seal = s.seal := by simp [State.txSk]
@[simp] theorem State.sendPlain_seal (s : State) (ep ty : Nat) (param : List Byte) : (s.sendPlain ep ty param).seal = s.seal := by simp [State.sendPlain]
@[simp] theorem State.sendNumbered_seal (s : State) (ep : Nat) (f : SkFrame) : (s.sendNumbered ep f).seal = s.seal := by simp [State.sendNumbered]
@[simp] theorem State.sendSeq_seal (s : State) (ep ty : Nat) (param payload : List Byte) : (s.sendSeq ep ty param payload).seal = s.seal := by simp [State.sendSeq]
@[simp] theorem State.drainWaiting_seal (n ep : Nat) (s : State) : (State.drainWaiting n ep s).seal = s.seal := by
  induction n generalizing s with
  | zero => rfl
  | succ n ih => unfold State.drainWaiting; dsimp only; (repeat' split) <;> simp [ih]
@[simp] theorem State.eventHosts_seal (s : State) (code a b : Nat) : (s.eventHosts code a b).seal = s.seal := by simp [State.eventHosts]
@[simp] theorem State.fenceSends_seal (s : State) (dev : Nat) : (s.fenceSends dev).seal = s.seal := by simp [State.fenceSends]
@[simp] theorem State.pairDown_seal (s : State) (ep : Nat) : (s.pairDown ep).seal = s.seal := by simp [State.pairDown]
@[simp] theorem State.portPairsDown_seal (s : State) (port : Nat) : (s.portPairsDown port).seal = s.seal := by simp [State.portPairsDown]
@[simp] theorem State.linkRelease_seal (s : State) (port : Nat) : (s.linkRelease port).seal = s.seal := by simp [State.linkRelease]
@[simp] theorem State.authEnd_seal (s : State) (result : Nat) : (s.authEnd result).seal = s.seal := by simp [State.authEnd]
@[simp] theorem State.authFail_seal (s : State) (op result purpose path : Nat) : (s.authFail op result purpose path).seal = s.seal := by simp [State.authFail]
@[simp] theorem State.closeSession_seal (s : State) (cause : Nat) : (s.closeSession cause).seal = s.seal := by simp [State.closeSession]
@[simp] theorem State.zeroEngines_seal (s : State) : (s.zeroEngines).seal = s.seal := by simp [State.zeroEngines]
@[simp] theorem State.zeroGranary_seal (s : State) : (s.zeroGranary).seal = s.seal := by simp [State.zeroGranary]
@[simp] theorem State.zeroWatch_seal (s : State) : (s.zeroWatch).seal = s.seal := by simp [State.zeroWatch]
@[simp] theorem State.openCheck_seal (s : State) : (s.openCheck).seal = s.seal := by unfold State.openCheck; dsimp only; (repeat' split) <;> simp
@[simp] theorem State.reeveTime_seal (s : State) : (s.reeveTime).2.seal = s.seal := by simp [State.reeveTime]
@[simp] theorem State.accept_seal (s : State) (x : Submission) : (s.accept x).2.seal = s.seal := by simp [State.accept]
@[simp] theorem State.ringTry_seal (s : State) (q : Nat) : (s.ringTry q).2.seal = s.seal := by unfold State.ringTry; dsimp only; (repeat' split) <;> simp
@[simp] theorem State.ringRead_seal (n : Nat) (s : State) (q : Nat) : (State.ringRead n s q).seal = s.seal := by
  induction n generalizing s with
  | zero => rfl
  | succ n ih =>
    unfold State.ringRead; split
    · split <;> (rename_i h; have k := (seal_snd h).trans (State.ringTry_seal _ _); simp [k, ih])
    · rfl
@[simp] theorem State.readRing_seal (s : State) (q : Nat) : (s.readRing q).seal = s.seal := by simp [State.readRing]
@[simp] theorem State.retryQueue_seal (s : State) (q : Nat) : (s.retryQueue q).seal = s.seal := by simp [State.retryQueue]
@[simp] theorem State.retryAll_seal (s : State) : (s.retryAll).seal = s.seal := by simp [State.retryAll]
@[simp] theorem State.view_seal (s : State) (n : Nat) : (s.view n).seal = s.seal := by simp [State.view]
@[simp] theorem State.takeRun_seal (s : State) (n : Nat) (c : Claim) (r : FieldRun) : (s.takeRun n c r).seal = s.seal := by simp [State.takeRun]
@[simp] theorem State.fieldTile_seal (s : State) (n : Nat) (c : Claim) (p : Plan) (limit : Nat) : (s.fieldTile n c p limit).seal = s.seal := by simp [State.fieldTile]
@[simp] theorem State.computeTile_seal (s : State) (n : Nat) (c : Claim) (p : Plan) : (s.computeTile n c p).seal = s.seal := by simp [State.computeTile]
@[simp] theorem State.workUnknown_seal (s : State) (n : Nat) (ctrs : List Nat) : (s.workUnknown n ctrs).seal = s.seal := by simp [State.workUnknown]
@[simp] theorem State.cutCompute_seal (s : State) (n : Nat) : (s.cutCompute n).seal = s.seal := by unfold State.cutCompute; dsimp only; (repeat' split) <;> simp
@[simp] theorem State.readRows_seal (s : State) (n : Nat) (c : Claim) (rows : Nat) : (s.readRows n c rows).seal = s.seal := by simp [State.readRows]
@[simp] theorem State.clobberBarn_seal (s : State) (n : Nat) : (s.clobberBarn n).seal = s.seal := by simp [State.clobberBarn]
@[simp] theorem State.zeroBarn_seal (s : State) (n : Nat) : (s.zeroBarn n).seal = s.seal := by simp [State.zeroBarn]
@[simp] theorem State.failTile_seal (s : State) (n slot tile source : Nat) (detail : Nat) (inj : Bool) : (s.failTile n slot tile source detail inj).seal = s.seal := by simp [State.failTile]
@[simp] theorem State.checkWord_seal (s : State) (n : Nat) (w : Nat × Nat) : (s.checkWord n w).seal = s.seal := by unfold State.checkWord; dsimp only; (repeat' split) <;> simp
@[simp] theorem State.checkWords_seal (s : State) (n : Nat) (ws : List (Nat × Nat)) : (s.checkWords n ws).seal = s.seal := by
  unfold State.checkWords; exact seal_forEach (fun w t => State.checkWord_seal t n w) s
@[simp] theorem State.issueReads_seal (s : State) (n : Nat) : (s.issueReads n).seal = s.seal := by simp [State.issueReads]
@[simp] theorem State.landWords_seal (s : State) (n first words : Nat) : (s.landWords n first words).seal = s.seal := by simp [State.landWords]
@[simp] theorem State.landBytes_seal (s : State) (n a : Nat) (bs : List Byte) : (s.landBytes n a bs).seal = s.seal := by simp [State.landBytes]
@[simp] theorem State.landReq_seal (s : State) (n : Nat) (c : Claim) (r : Req) : (s.landReq n c r).seal = s.seal := by simp [State.landReq]
@[simp] theorem State.fetchDescs_seal (s : State) (n : Nat) (c : Claim) (lo hi : Nat) : (s.fetchDescs n c lo hi).seal = s.seal := by simp [State.fetchDescs]
@[simp] theorem State.beginLoad_seal (s : State) (n : Nat) (c : Claim) : (s.beginLoad n c).seal = s.seal := by simp [State.beginLoad]
@[simp] theorem State.sendClaim_seal (s : State) (n : Nat) : (s.sendClaim n).seal = s.seal := by simp [State.sendClaim]
@[simp] theorem State.nextTile_seal (n : Nat) (s : State) (k : Nat) : (State.nextTile n s k).seal = s.seal := by
  induction n generalizing s with
  | zero => rfl
  | succ n ih => unfold State.nextTile; dsimp only; (repeat' split) <;> simp [ih]
@[simp] theorem State.wakeEngines_seal (s : State) : (s.wakeEngines).seal = s.seal := by simp [State.wakeEngines]
@[simp] theorem State.sieved_seal (s : State) (n : Nat) (r : SieveRun) : (s.sieved n r).seal = s.seal := by simp [State.sieved]
@[simp] theorem State.cutSieve_seal (s : State) (n : Nat) : (s.cutSieve n).seal = s.seal := by unfold State.cutSieve; (repeat' (first | split | (rename_i h; have := seal_snd h; clear h) | (rename_i h; have := seal_snd2 h; clear h))) <;> simp_all
@[simp] theorem State.cutTile_seal (s : State) (n : Nat) (gone : Claim → Bool) : (s.cutTile n gone).seal = s.seal := by unfold State.cutTile; (repeat' (first | split | (rename_i h; have := seal_snd h; clear h) | (rename_i h; have := seal_snd2 h; clear h))) <;> simp_all
@[simp] theorem State.discardTile_seal (s : State) (n : Nat) (gone : Claim → Bool) : (s.discardTile n gone).seal = s.seal := by simp [State.discardTile]
@[simp] theorem State.fenceWindows_seal (s : State) (n : Nat) : (s.fenceWindows n).seal = s.seal := by
  unfold State.fenceWindows; apply seal_forEach; intro w t; dsimp only; split
  · rfl
  · split <;> simp
@[simp] theorem State.fenceEngine_seal (s : State) (n : Nat) (powerOff : Bool) : (s.fenceEngine n powerOff).seal = s.seal := by simp [State.fenceEngine]
@[simp] theorem State.returnTile_seal (s : State) (n slot tile : Nat) : (s.returnTile n slot tile).seal = s.seal := by simp [State.returnTile]
@[simp] theorem State.disableSlice_seal (s : State) (sl : Nat) : (s.disableSlice sl).seal = s.seal := by simp [State.disableSlice]
@[simp] theorem State.portDown_seal (s : State) (p : Nat) : (s.portDown p).seal = s.seal := by simp [State.portDown]
@[simp] theorem State.halt_seal (s : State) : (s.halt).seal = s.seal := by simp [State.halt]
@[simp] theorem State.enterFault_seal (s : State) (cls code : Nat) : (s.enterFault cls code).seal = s.seal := by simp [State.enterFault]
@[simp] theorem State.act_seal (s : State) (a : Nat) (r : Report) : (s.act a r).seal = s.seal := by unfold State.act; dsimp only; (repeat' split) <;> simp
@[simp] theorem State.release_seal (s : State) (r : Report) : (s.release r).seal = s.seal := by simp [State.release]
@[simp] theorem State.handleReport_seal (s : State) (r : Report) : (s.handleReport r).seal = s.seal := by unfold State.handleReport; dsimp only; (repeat' split) <;> simp
@[simp] theorem State.finishExit_seal (s : State) (x : FExit) : (s.finishExit x).seal = s.seal := by simp [State.finishExit]
@[simp] theorem State.startTests_seal (s : State) (x : FExit) : (s.startTests x).seal = s.seal := by simp [State.startTests]
@[simp] theorem State.startExit_seal (s : State) (auto : Bool) : (s.startExit auto).seal = s.seal := by simp [State.startExit]
@[simp] theorem State.exitCheck_seal (s : State) : (s.exitCheck).seal = s.seal := by unfold State.exitCheck; (repeat' (first | split | (rename_i h; have := seal_snd h; clear h) | (rename_i h; have := seal_snd2 h; clear h))) <;> simp_all
@[simp] theorem State.drainReports_seal (n : Nat) (s : State) : (State.drainReports n s).seal = s.seal := by
  induction n generalizing s with
  | zero => rfl
  | succ n ih => unfold State.drainReports; split <;> simp [ih]
@[simp] theorem State.reportsDone_seal (s : State) : (s.reportsDone).seal = s.seal := by simp [State.reportsDone]
@[simp] theorem State.openDone_seal (s : State) : (s.openDone).seal = s.seal := by simp [State.openDone]
@[simp] theorem State.retryCheck_seal (s : State) : (s.retryCheck).seal = s.seal := by simp [State.retryCheck]
@[simp] theorem State.settle_seal (s : State) : (s.settle).seal = s.seal := by simp [State.settle]
@[simp] theorem keeps_done (s t : State) : Keeps s (done t) ↔ t.seal = s.seal := by simp [done]
@[simp] theorem State.fetchCheck_seal (s : State) (x : LoadCtx) : (s.fetchCheck x).2.seal = s.seal := by unfold State.fetchCheck; dsimp only; (repeat' split) <;> simp
@[simp] theorem State.readControls_seal (s : State) (x : LoadCtx) : (s.readControls x).seal = s.seal := by simp [State.readControls]
@[simp] theorem State.landWindow_seal (s : State) (eng win off : Nat) (data : List Byte) : (s.landWindow eng win off data).seal = s.seal := by simp [State.landWindow]
@[simp] theorem State.windowWrite_seal (s : State) (eng win : Nat) (wepoch : BitVec 16) (allowed stale : Bool) (off : Nat) (data : List Byte) : (s.windowWrite eng win wepoch allowed stale off data).2.seal = s.seal := by unfold State.windowWrite; dsimp only; (repeat' split) <;> simp
@[simp] theorem State.windowRefused_seal (s : State) (slot : Nat) (epoch : BitVec 16) : (s.windowRefused slot epoch).seal = s.seal := by simp [State.windowRefused]
@[simp] theorem State.markWrote_seal (s : State) (n slot : Nat) (epoch : BitVec 16) : (s.markWrote n slot epoch).seal = s.seal := by simp [State.markWrote]
@[simp] theorem execWindowWrite_seal (w : WinWrite) (s : State) : Keeps s (execWindowWrite w s) := by unfold execWindowWrite; dsimp only; (repeat' split) <;> simp
@[simp] theorem State.beginCopy_seal (s : State) (eng : Nat) : (s.beginCopy eng).seal = s.seal := by simp [State.beginCopy]
@[simp] theorem State.copyHome_seal (s : State) (eng win : Nat) : (s.copyHome eng win).2.seal = s.seal := by simp [State.copyHome]
@[simp] theorem State.endCopy_seal (s : State) (eng : Nat) : (s.endCopy eng).seal = s.seal := by simp [State.endCopy]
@[simp] theorem State.clearStook_seal (s : State) (n : Nat) : (s.clearStook n).seal = s.seal := by simp [State.clearStook]
@[simp] theorem execBarnScrubber_seal (eng : Fin 24) (s : State) : Keeps s (execBarnScrubber eng s) := by unfold execBarnScrubber; dsimp only; (repeat' split) <;> simp
@[simp] theorem State.readArrives_seal (s : State) (n : Nat) (c : Claim) (req : Option Req) (k badTries : Nat) : (s.readArrives n c req k badTries).seal = s.seal := by unfold State.readArrives; dsimp only; (repeat' split) <;> simp
@[simp] theorem execReadDataArrival_seal (eng : Fin 24) (sectors : Fin 5) (badTries : Fin 6) (s : State) : Keeps s (execReadDataArrival eng sectors badTries s) := by unfold execReadDataArrival; dsimp only; (repeat' split) <;> simp
@[simp] theorem State.landWrite_seal (s : State) (n slot tile : Nat) (epoch : BitVec 16) (w : WReq) : (s.landWrite n slot tile epoch w).seal = s.seal := by unfold State.landWrite; dsimp only; (repeat' split) <;> simp
@[simp] theorem State.issueWrites_seal (s : State) (n limit : Nat) : (s.issueWrites n limit).seal = s.seal := by simp [State.issueWrites]
@[simp] theorem State.writeAcked_seal (s : State) (n slot tile : Nat) (epoch : BitVec 16) (w : WReq) : (s.writeAcked n slot tile epoch w).seal = s.seal := by simp [State.writeAcked]
@[simp] theorem execWriteAck_seal (eng : Fin 24) (sectors : Fin 5) (s : State) : Keeps s (execWriteAck eng sectors s) := by unfold execWriteAck; dsimp only; (repeat' split) <;> simp
@[simp] theorem execFencedAnswer_seal (eng : Fin 24) (isWrite : Bool) (sectors : Fin 5) (s : State) : Keeps s (execFencedAnswer eng isWrite sectors s) := by unfold execFencedAnswer; dsimp only; (repeat' split) <;> simp
@[simp] theorem execGranaryAccess_seal (addr : Addr) (cls : BitVec 2) (acc : GAcc) (s : State) : Keeps s (execGranaryAccess addr cls acc s) := by unfold execGranaryAccess; dsimp only; (repeat' split) <;> simp
@[simp] theorem execGranaryFill_seal (addr : Addr) (badReads : Fin 6) (s : State) : Keeps s (execGranaryFill addr badReads s) := by unfold execGranaryFill; dsimp only; (repeat' split) <;> simp
@[simp] theorem State.loadBook_seal (s : State) (n : Nat) (cb : CbSlot) : (s.loadBook n cb).2.seal = s.seal := by unfold State.loadBook; dsimp only; (repeat' split) <;> simp
@[simp] theorem State.millBlock_seal (s : State) (n a i : Nat) : (s.millBlock n a i).2.seal = s.seal := by unfold State.millBlock; dsimp only; (repeat' split) <;> simp
@[simp] theorem State.millRow_seal (s : State) (n a : Nat) (l : List Nat) : (s.millRow n a l).2.2.seal = s.seal := by
  induction l generalizing s with
  | nil => rfl
  | cons i l ih =>
    unfold State.millRow; split
    · rename_i h; rw [ih]; simp [seal_snd h]
    · rename_i h; simp [seal_snd h]
@[simp] theorem State.looseOutputs_seal (s : State) (p : Plan) : (s.looseOutputs p).seal = s.seal := by
  unfold State.looseOutputs; apply seal_forEach; intro r t; rw [State.used_seal]; split <;> simp
@[simp] theorem State.endZifer_seal (s : State) (n : Nat) (c : Claim) (status : Nat) : (s.endZifer n c status).seal = s.seal := by simp [State.endZifer]
@[simp] theorem State.restartTile_seal (s : State) (n : Nat) (c c' : Claim) : (s.restartTile n c c').seal = s.seal := by simp [State.restartTile]
@[simp] theorem State.expandRow_seal (s : State) (n : Nat) (c : Claim) (p : Plan) (base x len : Nat) : (s.expandRow n c p base x len).seal = s.seal := by
  unfold State.expandRow
  split <;> (rename_i h; have k := (seal_snd2 h).trans (State.millRow_seal _ _ _ _); clear h; try (dsimp only; split)) <;> simp [k]
@[simp] theorem execBlockExpand_seal (eng : Fin 24) (base : Addr) (x len : Word) (s : State) : Keeps s (execBlockExpand eng base x len s) := by unfold execBlockExpand; dsimp only; (repeat' split) <;> simp
@[simp] theorem execAvailable_seal (eng : Fin 24) (s : State) : Keeps s (execAvailable eng s) := by unfold execAvailable; dsimp only; (repeat' split) <;> simp
@[simp] theorem execTallyClaim_seal (eng : Fin 24) (s : State) : Keeps s (execTallyClaim eng s) := by unfold execTallyClaim; dsimp only; (repeat' split) <;> simp
@[simp] theorem execGrant_seal (eng : Fin 24) (s : State) : Keeps s (execGrant eng s) := by unfold execGrant; dsimp only; (repeat' split) <;> simp
@[simp] theorem State.restOfLoad_seal (s : State) (n : Nat) (c : Claim) : (s.restOfLoad n c).seal = s.seal := by simp [State.restOfLoad]
@[simp] theorem execLoadEnd_seal (eng : Fin 24) (s : State) : Keeps s (execLoadEnd eng s) := by unfold execLoadEnd; dsimp only; (repeat' split) <;> simp
@[simp] theorem State.sendTile_seal (s : State) (n : Nat) (c : Claim) (e : Nat) (p : Plan) : (s.sendTile n c e p).seal = s.seal := by simp [State.sendTile]
@[simp] theorem State.seedLanes_seal (s : State) (n seq seed : Nat) : (s.seedLanes n seq seed).seal = s.seal := by simp [State.seedLanes]
@[simp] theorem State.beginDrain_seal (s : State) (n : Nat) (c : Claim) (o : TileOut) (run : Option SieveRun) (ws : List WReq) : (s.beginDrain n c o run ws).seal = s.seal := by simp [State.beginDrain]
@[simp] theorem State.drainTile_seal (s : State) (n : Nat) (c : Claim) (p : Plan) : (s.drainTile n c p).seal = s.seal := by simp [State.drainTile]
@[simp] theorem execComputeEnd_seal (eng : Fin 24) (s : State) : Keeps s (execComputeEnd eng s) := by unfold execComputeEnd; dsimp only; (repeat' split) <;> simp
@[simp] theorem State.dropUnknown_seal (s : State) : (s.dropUnknown).seal = s.seal := by simp [State.dropUnknown]
@[simp] theorem State.restOfDrain_seal (s : State) (n : Nat) (c : Claim) : (s.restOfDrain n c).seal = s.seal := by simp [State.restOfDrain]
@[simp] theorem execDrainEnd_seal (eng : Fin 24) (s : State) : Keeps s (execDrainEnd eng s) := by unfold execDrainEnd; dsimp only; (repeat' split) <;> simp
@[simp] theorem execTallyDone_seal (eng : Fin 24) (s : State) : Keeps s (execTallyDone eng s) := by unfold execTallyDone; dsimp only; (repeat' split) <;> simp
@[simp] theorem execDepositFold_seal (slot : Fin 64) (s : State) : Keeps s (execDepositFold slot s) := by unfold execDepositFold; dsimp only; (repeat' split) <;> simp
@[simp] theorem execRestamp_seal (eng : Fin 24) (slot : Fin 64) (s : State) : Keeps s (execRestamp eng slot s) := by unfold execRestamp; dsimp only; (repeat' split) <;> simp
@[simp] theorem execRestampAnswer_seal (eng : Fin 24) (slot : Fin 64) (s : State) : Keeps s (execRestampAnswer eng slot s) := by unfold execRestampAnswer; dsimp only; (repeat' split) <;> simp
@[simp] theorem execEprioRaise_seal (slot : Fin 64) (s : State) : Keeps s (execEprioRaise slot s) := by simp [execEprioRaise]
@[simp] theorem State.fillBook_seal (s : State) (st : Nat) (b : CbSlot) : (s.fillBook st b).seal = s.seal := by simp [State.fillBook]
@[simp] theorem State.openWindow_seal (s : State) (q : BitVec 5) (w : WinRec) : (s.openWindow q w).seal = s.seal := by simp [State.openWindow]
@[simp] theorem State.applyStaged_seal (s : State) (e : Nat) (x : Staged) : (s.applyStaged e x).seal = s.seal := by unfold State.applyStaged; dsimp only; (repeat' split) <;> simp
@[simp] theorem State.applyAll_seal (s : State) (e : Nat) (l : List Staged) : (s.applyAll e l).seal = s.seal := by simp [State.applyAll]
@[simp] theorem State.finishCommit_seal (s : State) (e : Nat) (l : List Staged) : (s.finishCommit e l).seal = s.seal := by unfold State.finishCommit; dsimp only; (repeat' split) <;> simp
@[simp] theorem State.commit_seal (s : State) (e : Nat) : (s.commit e).seal = s.seal := by unfold State.commit; dsimp only; (repeat' split) <;> simp
@[simp] theorem State.tryCommit_seal (s : State) (e : Nat) : (s.tryCommit e).seal = s.seal := by simp [State.tryCommit]
@[simp] theorem execCommandCommit_seal (e : Fin 16384) (s : State) : Keeps s (execCommandCommit e s) := by simp [execCommandCommit]
@[simp] theorem execWaitTimeout_seal (e : Fin 16384) (s : State) : Keeps s (execWaitTimeout e s) := by simp [execWaitTimeout]
@[simp] theorem State.failCheck_seal (s : State) (x : LoadCtx) (status step ddesc cause : Nat) : (s.failCheck x status step ddesc cause).seal = s.seal := by simp [State.failCheck]
@[simp] theorem State.recordPass_seal (s : State) (x : LoadCtx) : (s.recordPass x).seal = s.seal := by simp [State.recordPass]
@[simp] theorem State.setSlotUp_seal (s : State) (e i a : Nat) (epoch : BitVec 16) : (s.setSlotUp e i a epoch).seal = s.seal := by simp [State.setSlotUp]
@[simp] theorem State.assignSlot_seal (s : State) : (s.assignSlot).seal = s.seal := by unfold State.assignSlot; (repeat' (first | split | (rename_i h; have := seal_snd h; clear h) | (rename_i h; have := seal_snd2 h; clear h))) <;> simp_all
@[simp] theorem State.startAction_seal (s : State) (x : LoadCtx) : (s.startAction x).seal = s.seal := by simp [State.startAction]
@[simp] theorem State.afterCheck_seal (s : State) (x : LoadCtx) (k : Chk) : (s.afterCheck x k).seal = s.seal := by unfold State.afterCheck; dsimp only; (repeat' split) <;> simp
@[simp] theorem State.loadCommand_seal (s : State) (e : Nat) : (s.loadCommand e).seal = s.seal := by
  unfold State.loadCommand; dsimp only; split
  · simp
  · split <;> (rename_i h; have k := (seal_snd h).trans (State.fetchCheck_seal _ _); simp [k])
@[simp] theorem State.beginCommand_seal (s : State) (e : Nat) (mine : Nat → Bool) : (s.beginCommand e mine).seal = s.seal := by simp [State.beginCommand]
@[simp] theorem execNop_seal (e : Fin 16384) (s : State) : Keeps s (execNop e s) := by simp [execNop]
@[simp] theorem execGemm_seal (e : Fin 16384) (s : State) : Keeps s (execGemm e s) := by simp [execGemm]
@[simp] theorem execConv_seal (e : Fin 16384) (s : State) : Keeps s (execConv e s) := by simp [execConv]
@[simp] theorem execDwconv_seal (e : Fin 16384) (s : State) : Keeps s (execDwconv e s) := by simp [execDwconv]
@[simp] theorem execPool_seal (e : Fin 16384) (s : State) : Keeps s (execPool e s) := by simp [execPool]
@[simp] theorem execBoxpool_seal (e : Fin 16384) (s : State) : Keeps s (execBoxpool e s) := by simp [execBoxpool]
@[simp] theorem execEltw_seal (e : Fin 16384) (s : State) : Keeps s (execEltw e s) := by simp [execEltw]
@[simp] theorem execReduce_seal (e : Fin 16384) (s : State) : Keeps s (execReduce e s) := by simp [execReduce]
@[simp] theorem execLut_seal (e : Fin 16384) (s : State) : Keeps s (execLut e s) := by simp [execLut]
@[simp] theorem execCopy_seal (e : Fin 16384) (s : State) : Keeps s (execCopy e s) := by simp [execCopy]
@[simp] theorem execSend_seal (e : Fin 16384) (s : State) : Keeps s (execSend e s) := by simp [execSend]
@[simp] theorem execOptim_seal (e : Fin 16384) (s : State) : Keeps s (execOptim e s) := by simp [execOptim]
@[simp] theorem execStats_seal (e : Fin 16384) (s : State) : Keeps s (execStats e s) := by simp [execStats]
@[simp] theorem execLoadb_seal (e : Fin 16384) (s : State) : Keeps s (execLoadb e s) := by simp [execLoadb]
@[simp] theorem execSignal_seal (e : Fin 16384) (s : State) : Keeps s (execSignal e s) := by simp [execSignal]
@[simp] theorem execWait_seal (e : Fin 16384) (s : State) : Keeps s (execWait e s) := by simp [execWait]
@[simp] theorem execWopen_seal (e : Fin 16384) (s : State) : Keeps s (execWopen e s) := by simp [execWopen]
@[simp] theorem execWclose_seal (e : Fin 16384) (s : State) : Keeps s (execWclose e s) := by simp [execWclose]
@[simp] theorem execScrub_seal (e : Fin 16384) (s : State) : Keeps s (execScrub e s) := by simp [execScrub]
@[simp] theorem execCodebook_seal (e : Fin 16384) (s : State) : Keeps s (execCodebook e s) := by simp [execCodebook]
@[simp] theorem execEndList_seal (e : Fin 16384) (s : State) : Keeps s (execEndList e s) := by simp [execEndList]
@[simp] theorem execWindowClosed_seal (eng : Fin 24) (win : Fin 8) (s : State) : Keeps s (execWindowClosed eng win s) := by unfold execWindowClosed; dsimp only; (repeat' split) <;> simp
@[simp] theorem execScrubEngine_seal (eng : Fin 24) (s : State) : Keeps s (execScrubEngine eng s) := by unfold execScrubEngine; dsimp only; (repeat' split) <;> simp
@[simp] theorem execBarrierWaitEnd_seal (e : Fin 16384) (s : State) : Keeps s (execBarrierWaitEnd e s) := by simp [execBarrierWaitEnd]
@[simp] theorem execLoaderWaitEnd_seal (e : Fin 16384) (s : State) : Keeps s (execLoaderWaitEnd e s) := by simp [execLoaderWaitEnd]
@[simp] theorem execTallySlotAssign_seal (s : State) : Keeps s (execTallySlotAssign s) := by simp [execTallySlotAssign]
@[simp] theorem State.startRestore_seal (s : State) (debug : Bool) : (s.startRestore debug).seal = s.seal := by simp [State.startRestore]
@[simp] theorem State.wake_seal (s : State) (src : Nat) : (s.wake src).seal = s.seal := by simp [State.wake]
@[simp] theorem State.entryEnd_seal (s : State) (p : BitVec 3) : (s.entryEnd p).seal = s.seal := by simp [State.entryEnd]
@[simp] theorem State.takeRequest_seal (s : State) (v : BitVec 2) : (s.takeRequest v).seal = s.seal := by simp [State.takeRequest]
@[simp] theorem State.releaseEntry_seal (s : State) (e : Nat) : (s.releaseEntry e).seal = s.seal := by simp [State.releaseEntry]
@[simp] theorem State.freeConsumed_seal (s : State) (q : Nat) : (s.freeConsumed q).seal = s.seal := by simp [State.freeConsumed]
@[simp] theorem State.cplAcked_seal (s : State) (f : SkFrame) : (s.cplAcked f).seal = s.seal := by unfold State.cplAcked; dsimp only; (repeat' split) <;> simp
@[simp] theorem State.hostLost_seal (s : State) (id : BitVec 6) : (s.hostLost id).seal = s.seal := by simp [State.hostLost]
@[simp] theorem State.triggerSubmit_seal (s : State) (st k : Nat) : (s.triggerSubmit st k).2.seal = s.seal := by unfold State.triggerSubmit; dsimp only; (repeat' split) <;> simp
@[simp] theorem State.trigger_seal (s : State) (st k : Nat) : (s.trigger st k).seal = s.seal := by unfold State.trigger; (repeat' (first | split | (rename_i h; have := seal_snd h; clear h) | (rename_i h; have := seal_snd2 h; clear h))) <;> simp_all
@[simp] theorem execTriggeredSubmitRetry_seal (st : Fin 16) (s : State) : Keeps s (execTriggeredSubmitRetry st s) := by unfold execTriggeredSubmitRetry; dsimp only; (repeat' split) <;> simp
@[simp] theorem State.sendCpl_seal (s : State) (x : Entry) (cr : List Byte) : (s.sendCpl x cr).seal = s.seal := by simp [State.sendCpl]
@[simp] theorem State.post_seal (s : State) (e : Nat) : (s.post e).seal = s.seal := by simp [State.post]
@[simp] theorem State.postNext_seal (s : State) (q : Nat) : (s.postNext q).seal = s.seal := by unfold State.postNext; (repeat' (first | split | (rename_i h; have := seal_snd h; clear h) | (rename_i h; have := seal_snd2 h; clear h))) <;> simp_all
@[simp] theorem execCompletionPost_seal (q : Fin 32) (s : State) : Keeps s (execCompletionPost q s) := by simp [execCompletionPost]
@[simp] theorem execRingRetry_seal (q : Fin 32) (s : State) : Keeps s (execRingRetry q s) := by simp [execRingRetry]
@[simp] theorem State.writeQtail_seal (s : State) (q : Nat) (v : Half) : (s.writeQtail q v).seal = s.seal := by simp [State.writeQtail]
@[simp] theorem State.writeQchead_seal (s : State) (q : Nat) (v : Half) : (s.writeQchead q v).seal = s.seal := by simp [State.writeQchead]
@[simp] theorem State.writeQcfg_seal (s : State) (q : Nat) (v : Word) : (s.writeQcfg q v).seal = s.seal := by simp [State.writeQcfg]
@[simp] theorem State.writeBase_seal (s : State) (q : Nat) (f : Queue → Queue) : (s.writeBase q f).seal = s.seal := by simp [State.writeBase]
@[simp] theorem State.onTile_seal (s : State) (r : Report) (f : Claim → Claim) : (s.onTile r f).seal = s.seal := by simp [State.onTile]
@[simp] theorem State.winoFault_seal (s : State) (r : Report) : (s.winoFault r).seal = s.seal := by unfold State.winoFault; dsimp only; (repeat' split) <;> simp
@[simp] theorem State.checkerEffect_seal (s : State) (r : Report) : (s.checkerEffect r).seal = s.seal := by unfold State.checkerEffect; simp <;> (repeat' split) <;> simp
@[simp] theorem execFaultReport_seal (r : Report) (s : State) : Keeps s (execFaultReport r s) := by unfold execFaultReport; dsimp only; (repeat' split) <;> simp
@[simp] theorem execPloughTmo_seal (eng : Fin 24) (s : State) : Keeps s (execPloughTmo eng s) := by unfold execPloughTmo; (repeat' (first | split | (rename_i h; have := seal_snd h; clear h) | (rename_i h; have := seal_snd2 h; clear h))) <;> simp_all
@[simp] theorem execEscalationQuietExpiry_seal (source : Fin 128) (inst : Nat) (s : State) : Keeps s (execEscalationQuietExpiry source inst s) := by simp [execEscalationQuietExpiry]
@[simp] theorem execQuietTimerExpiry_seal (s : State) : Keeps s (execQuietTimerExpiry s) := by unfold execQuietTimerExpiry; (repeat' (first | split | (rename_i h; have := seal_snd h; clear h) | (rename_i h; have := seal_snd2 h; clear h))) <;> simp_all
@[simp] theorem execAlertNMinLowExpiry_seal (s : State) : Keeps s (execAlertNMinLowExpiry s) := by simp [execAlertNMinLowExpiry]
@[simp] theorem State.exitEngine_seal (s : State) (n : Fin 24) (passed : Bool) : (s.exitEngine n passed).seal = s.seal := by simp [State.exitEngine]
@[simp] theorem execEngineSelfTestDone_seal (eng : Fin 24) (failStep : Fin 6) (s : State) : Keeps s (execEngineSelfTestDone eng failStep s) := by unfold execEngineSelfTestDone; dsimp only; (repeat' split) <;> simp
@[simp] theorem execSliceSelfTestDone_seal (slice : Fin 64) (passed : Bool) (s : State) : Keeps s (execSliceSelfTestDone slice passed s) := by unfold execSliceSelfTestDone; dsimp only; (repeat' split) <;> simp
@[simp] theorem State.readmit_seal (s : State) (n : Nat) : (s.readmit n).seal = s.seal := by simp [State.readmit]
@[simp] theorem State.exitRequest_seal (s : State) : (s.exitRequest).seal = s.seal := by simp [State.exitRequest]
@[simp] theorem State.writeFltinj_seal (s : State) (v : Word) : (s.writeFltinj v).seal = s.seal := by simp [State.writeFltinj]
@[simp] theorem State.watchTrigger_seal (s : State) : (s.watchTrigger).seal = s.seal := by simp [State.watchTrigger]
@[simp] theorem State.watchScore_seal (s : State) (m : Mem) (i : Nat) : (s.watchScore m i).seal = s.seal := by simp [State.watchScore]
@[simp] theorem execWatchRun_seal (s : State) : Keeps s (execWatchRun s) := by unfold execWatchRun; dsimp only; (repeat' split) <;> simp
@[simp] theorem State.tabActivate_seal (s : State) (i : Nat) : (s.tabActivate i).seal = s.seal := by simp [State.tabActivate]
@[simp] theorem State.tabCommit_seal (s : State) (i : Nat) : (s.tabCommit i).seal = s.seal := by simp [State.tabCommit]
@[simp] theorem State.tabRevert_seal (s : State) (i : Nat) : (s.tabRevert i).seal = s.seal := by simp [State.tabRevert]
@[simp] theorem State.tabRestore_seal (s : State) (i : Nat) : (s.tabRestore i).seal = s.seal := by simp [State.tabRestore]
@[simp] theorem State.writeTblsel_seal (s : State) (p : Path) (v : Word) : (s.writeTblsel p v).seal = s.seal := by unfold State.writeTblsel; dsimp only; (repeat' split) <;> simp
@[simp] theorem State.readCtr_seal (s : State) (p : Path) (addr : Nat) : (s.readCtr p addr).2.seal = s.seal := by unfold State.readCtr; dsimp only; (repeat' split) <;> simp
@[simp] theorem State.tblAdvance_seal (s : State) (p : Path) : (s.tblAdvance p).seal = s.seal := by simp [State.tblAdvance]
@[simp] theorem State.writeTbldata_seal (s : State) (p : Path) (v : Word) : (s.writeTbldata p v).seal = s.seal := by unfold State.writeTbldata; dsimp only; (repeat' split) <;> simp
@[simp] theorem State.readTbldata_seal (s : State) (p : Path) : (s.readTbldata p).2.seal = s.seal := by unfold State.readTbldata; dsimp only; (repeat' split) <;> simp
@[simp] theorem execGateStateChange_seal (port : Fin 8) (s : State) : Keeps s (execGateStateChange port s) := by unfold execGateStateChange; dsimp only; (repeat' split) <;> simp
@[simp] theorem State.cutErase_seal (s : State) : (s.cutErase).seal = s.seal := by simp [State.cutErase]
@[simp] theorem State.countPowerUp_seal (s : State) : (s.countPowerUp).seal = s.seal := by simp [State.countPowerUp]
@[simp] theorem State.putSec_seal (s : State) (o : Nat) (bs : List Byte) : (s.putSec o bs).seal = s.seal := by simp [State.putSec]
theorem State.tokenOp_seal (s : State) (p : Path) (op : Nat) (purposes : List Nat) (more : Token → List Nat) (act : Token → State → State)
    (h : ∀ t u, (act t u).seal = u.seal) : (s.tokenOp p op purposes more act).seal = s.seal := by
  unfold State.tokenOp; dsimp only; split <;> simp [h]
@[simp] theorem State.challenge_seal (s : State) : (s.challenge).seal = s.seal := by simp [State.challenge]
@[simp] theorem State.attestNow_seal (s : State) : (s.attestNow).seal = s.seal := by simp [State.attestNow]
@[simp] theorem State.attestSettle_seal (s : State) : (s.attestSettle).seal = s.seal := by simp [State.attestSettle]
@[simp] theorem State.openOp_seal (s : State) (p : Path) : (s.openOp p).seal = s.seal := by
  unfold State.openOp; apply State.tokenOp_seal; intro t u; simp
@[simp] theorem State.setcakOp_seal (s : State) (p : Path) : (s.setcakOp p).seal = s.seal := by
  unfold State.setcakOp; apply State.tokenOp_seal; intro t u; simp
@[simp] theorem State.policyOp_seal (s : State) (p : Path) : (s.policyOp p).seal = s.seal := by
  unfold State.policyOp; apply State.tokenOp_seal; intro t u; simp
@[simp] theorem State.bookclrOp_seal (s : State) (p : Path) : (s.bookclrOp p).seal = s.seal := by
  unfold State.bookclrOp; apply State.tokenOp_seal; intro t u; simp
@[simp] theorem State.closeOp_seal (s : State) : (s.closeOp).seal = s.seal := by simp [State.closeOp]
@[simp] theorem State.verifyOp_seal (s : State) : (s.verifyOp).seal = s.seal := by unfold State.verifyOp; dsimp only; (repeat' split) <;> simp
@[simp] theorem State.releaseOp_seal (s : State) : (s.releaseOp).seal = s.seal := by simp [State.releaseOp]
@[simp] theorem State.updateOp_seal (s : State) : (s.updateOp).seal = s.seal := by unfold State.updateOp; dsimp only; (repeat' split) <;> simp
@[simp] theorem State.storeOp_seal (s : State) : (s.storeOp).seal = s.seal := by simp [State.storeOp]
theorem State.authOp_seal (s : State) (p : Path) (op : Nat) (h5 : op ≠ 0x05) (h8 : op ≠ 0x08) (hc : op ≠ 0x0C) : (s.authOp p op).seal = s.seal := by
  have k : (s.modSec fun c => { c with busy := true, lastop := BitVec.ofNat 8 op }).seal = s.seal := by simp
  unfold State.authOp
  by_cases hb : (!s.mayAuth p || s.sec.busy || op = 0 || s.sec.lc = 0xF || s.dev.pstate == psOff) = true
  · rw [if_pos hb]
  rw [if_neg hb, ← k]
  clear k hb
  generalize (s.modSec fun c => { c with busy := true, lastop := BitVec.ofNat 8 op }) = u
  dsimp only
  simp only [if_neg h5, if_neg h8, if_neg hc, decide_eq_false hc, Bool.and_false, seal_ite, State.challenge_seal, State.attestNow_seal, State.openOp_seal,
    State.closeOp_seal, State.verifyOp_seal, State.releaseOp_seal, State.setcakOp_seal, State.policyOp_seal, State.bookclrOp_seal, State.storeOp_seal,
    State.authEnd_seal, ite_self, Bool.false_eq_true, if_false]
@[simp] theorem execChallenge_seal (p : Path) (s : State) : Keeps s (execChallenge p s) := by simp [execChallenge, State.authOp_seal]
@[simp] theorem execAttest_seal (p : Path) (s : State) : Keeps s (execAttest p s) := by simp [execAttest, State.authOp_seal]
@[simp] theorem execOpenDebug_seal (p : Path) (s : State) : Keeps s (execOpenDebug p s) := by simp [execOpenDebug, State.authOp_seal]
@[simp] theorem execCloseDebug_seal (p : Path) (s : State) : Keeps s (execCloseDebug p s) := by simp [execCloseDebug, State.authOp_seal]
@[simp] theorem execVerify_seal (p : Path) (s : State) : Keeps s (execVerify p s) := by simp [execVerify, State.authOp_seal]
@[simp] theorem execRelease_seal (p : Path) (s : State) : Keeps s (execRelease p s) := by simp [execRelease, State.authOp_seal]
@[simp] theorem execSetcak_seal (p : Path) (s : State) : Keeps s (execSetcak p s) := by simp [execSetcak, State.authOp_seal]
@[simp] theorem execPolicy_seal (p : Path) (s : State) : Keeps s (execPolicy p s) := by simp [execPolicy, State.authOp_seal]
@[simp] theorem execBookclr_seal (p : Path) (s : State) : Keeps s (execBookclr p s) := by simp [execBookclr, State.authOp_seal]
@[simp] theorem execStore_seal (p : Path) (s : State) : Keeps s (execStore p s) := by simp [execStore, State.authOp_seal]
@[simp] theorem execClrauthExpiry_seal (s : State) : Keeps s (execClrauthExpiry s) := by simp [execClrauthExpiry]
@[simp] theorem execOpsecsSave_seal (opsecs : Word) (s : State) : Keeps s (execOpsecsSave opsecs s) := by simp [execOpsecsSave]
@[simp] theorem State.readTime_seal (s : State) (p : Path) : (s.readTime p).2.seal = s.seal := by simp [State.readTime]
@[simp] theorem State.readWord_seal (s : State) (p : Path) (w : Nat) : (s.readWord p w).2.seal = s.seal := by unfold State.readWord; (repeat' (first | split | (rename_i h; have := seal_snd h; clear h) | (rename_i h; have := seal_snd2 h; clear h))) <;> simp_all
@[simp] theorem State.writeRun_seal (s : State) (on : Bool) : (s.writeRun on).seal = s.seal := by simp [State.writeRun]
@[simp] theorem State.writePsreq_seal (s : State) (v : BitVec 2) : (s.writePsreq v).seal = s.seal := by simp [State.writePsreq]
@[simp] theorem State.writeService_seal (s : State) (on : Bool) : (s.writeService on).seal = s.seal := by simp [State.writeService]
@[simp] theorem State.writeWrst_seal (s : State) : (s.writeWrst).seal = s.seal := by simp [State.writeWrst]
@[simp] theorem State.writeDevctl_seal (s : State) (n : Nat) : (s.writeDevctl n).seal = s.seal := by simp [State.writeDevctl]
@[simp] theorem State.writeIrqen_seal (s : State) (v : Word) : (s.writeIrqen v).seal = s.seal := by simp [State.writeIrqen]
@[simp] theorem State.writeFlush_seal (s : State) : (s.writeFlush).seal = s.seal := by simp [State.writeFlush]
@[simp] theorem State.writeClear_seal (s : State) : (s.writeClear).seal = s.seal := by simp [State.writeClear]
@[simp] theorem State.writePortcfg_seal (s : State) (n : Nat) (v : Word) : (s.writePortcfg n v).seal = s.seal := by simp [State.writePortcfg]
@[simp] theorem State.writeSktype_seal (s : State) (v : Half) : (s.writeSktype v).seal = s.seal := by simp [State.writeSktype]
@[simp] theorem State.writeSys_seal (s : State) (v : Byte) : (s.writeSys v).seal = s.seal := by simp [State.writeSys]
@[simp] theorem State.writeWatchctl_seal (s : State) (n : Nat) : (s.writeWatchctl n).seal = s.seal := by simp [State.writeWatchctl]
@[simp] theorem State.writeFltctl_seal (s : State) (n : Nat) : (s.writeFltctl n).seal = s.seal := by simp [State.writeFltctl]
@[simp] theorem State.writeDis_seal (s : State) (mask : BitVec 24) : (s.writeDis mask).seal = s.seal := by simp [State.writeDis]
@[simp] theorem State.writeEngctl_seal (s : State) (n : Nat) : (s.writeEngctl n).seal = s.seal := by simp [State.writeEngctl]
theorem State.writeWord_seal (s : State) (p : Path) (w : Nat) (v : Word) (h : w ≠ 0x39) : (s.writeWord p w v).seal = s.seal := by
  unfold State.writeWord; dsimp only; split <;> first | contradiction | (simp <;> (repeat' split) <;> simp)
@[simp] theorem State.wrAcc_seal (s : State) (w : Nat) (a : WrAcc) : (s.wrAcc w a).2.2.seal = s.seal := by unfold State.wrAcc; dsimp only; (repeat' split) <;> simp
theorem State.access_seal (s : State) (w : Nat) (a : WrAcc) (h : w ≠ 0x39) : (s.access w a).seal = s.seal := by
  unfold State.access; have := State.wrAcc_seal s w a; dsimp only; split
  · rw [State.writeWord_seal _ _ _ _ h, this]
  · rfl
@[simp] theorem State.readVia_seal (s : State) (p : Path) (w : Nat) : (s.readVia p w).seal = s.seal := by simp [State.readVia]
@[simp] theorem execMbWriteHighHalf_seal (addr hi : Half) (s : State) : Keeps s (execMbWriteHighHalf addr hi s) := by simp [execMbWriteHighHalf]
@[simp] theorem execMbReadLowHalf_seal (addr : Half) (s : State) : Keeps s (execMbReadLowHalf addr s) := by unfold execMbReadLowHalf; dsimp only; (repeat' split) <;> simp
@[simp] theorem execQtailWrite_seal (a : WrAcc) (s : State) : Keeps s (execQtailWrite a s) := by simp [execQtailWrite, State.access_seal]
@[simp] theorem execQcheadWrite_seal (a : WrAcc) (s : State) : Keeps s (execQcheadWrite a s) := by simp [execQcheadWrite, State.access_seal]
@[simp] theorem execQcfgWrite_seal (a : WrAcc) (s : State) : Keeps s (execQcfgWrite a s) := by simp [execQcfgWrite, State.access_seal]
@[simp] theorem execFltinjWrite_seal (a : WrAcc) (s : State) : Keeps s (execFltinjWrite a s) := by simp [execFltinjWrite, State.access_seal]
@[simp] theorem execFltsumWrite_seal (a : WrAcc) (s : State) : Keeps s (execFltsumWrite a s) := by simp [execFltsumWrite, State.access_seal]
@[simp] theorem execPbcurWrite_seal (a : WrAcc) (s : State) : Keeps s (execPbcurWrite a s) := by simp [execPbcurWrite, State.access_seal]
@[simp] theorem execTbldataWrite_seal (a : WrAcc) (s : State) : Keeps s (execTbldataWrite a s) := by simp [execTbldataWrite, State.access_seal]
@[simp] theorem execIrqenWrite_seal (a : WrAcc) (s : State) : Keeps s (execIrqenWrite a s) := by simp [execIrqenWrite, State.access_seal]
@[simp] theorem execPortcfgWrite_seal (a : WrAcc) (s : State) : Keeps s (execPortcfgWrite a s) := by simp [execPortcfgWrite, State.access_seal]
theorem State.fieldWrite_seal (s : State) (p : Path) (w : Nat) (f : State → State) (h : (f s).seal = s.seal) : (s.fieldWrite p w f).seal = s.seal := by
  unfold State.fieldWrite; split <;> simp [h]
@[simp] theorem execDevctlRun_seal (p : Path) (on : Bool) (s : State) : Keeps s (execDevctlRun p on s) := by
  simp only [execDevctlRun, keeps_done]; apply State.fieldWrite_seal; simp
@[simp] theorem execDevctlPsreq_seal (p : Path) (v : BitVec 2) (s : State) : Keeps s (execDevctlPsreq p v s) := by
  simp only [execDevctlPsreq, keeps_done]; apply State.fieldWrite_seal; simp
@[simp] theorem execDevctlProfile_seal (p : Path) (v : BitVec 2) (s : State) : Keeps s (execDevctlProfile p v s) := by
  simp only [execDevctlProfile, keeps_done]; apply State.fieldWrite_seal; simp
@[simp] theorem execDevctlService_seal (p : Path) (on : Bool) (s : State) : Keeps s (execDevctlService p on s) := by
  simp only [execDevctlService, keeps_done]; apply State.fieldWrite_seal; simp
@[simp] theorem execDevctlWrst_seal (p : Path) (s : State) : Keeps s (execDevctlWrst p s) := by
  simp only [execDevctlWrst, keeps_done]; apply State.fieldWrite_seal; simp
@[simp] theorem execFltctlExit_seal (p : Path) (s : State) : Keeps s (execFltctlExit p s) := by
  simp only [execFltctlExit, keeps_done]; apply State.fieldWrite_seal; simp
@[simp] theorem execEngctlReadmit_seal (p : Path) (reng : BitVec 5) (s : State) : Keeps s (execEngctlReadmit p reng s) := by
  simp only [execEngctlReadmit, keeps_done]; apply State.fieldWrite_seal; simp
@[simp] theorem execEngctlDis_seal (p : Path) (mask : BitVec 24) (s : State) : Keeps s (execEngctlDis p mask s) := by
  simp only [execEngctlDis, keeps_done]; apply State.fieldWrite_seal; simp
@[simp] theorem execPbctlFlush_seal (p : Path) (s : State) : Keeps s (execPbctlFlush p s) := by
  simp only [execPbctlFlush, keeps_done]; apply State.fieldWrite_seal; simp
@[simp] theorem execPbctlClear_seal (p : Path) (s : State) : Keeps s (execPbctlClear p s) := by
  simp only [execPbctlClear, keeps_done]; apply State.fieldWrite_seal; simp
@[simp] theorem execTblselCommit_seal (p : Path) (sel : Byte) (s : State) : Keeps s (execTblselCommit p sel s) := by
  simp only [execTblselCommit, keeps_done]; apply State.fieldWrite_seal; simp
@[simp] theorem execTblselRevert_seal (p : Path) (sel : Byte) (s : State) : Keeps s (execTblselRevert p sel s) := by
  simp only [execTblselRevert, keeps_done]; apply State.fieldWrite_seal; simp
@[simp] theorem execTbldataRead_seal (p : Path) (s : State) : Keeps s (execTbldataRead p s) := by simp [execTbldataRead]
@[simp] theorem execTimeLoRead_seal (p : Path) (s : State) : Keeps s (execTimeLoRead p s) := by simp [execTimeLoRead]
@[simp] theorem execPbwin7Read_seal (p : Path) (s : State) : Keeps s (execPbwin7Read p s) := by simp [execPbwin7Read]
@[simp] theorem execPbRecordProgrammed_seal (s : State) : Keeps s (execPbRecordProgrammed s) := by simp [execPbRecordProgrammed]
@[simp] theorem execPbEraseDone_seal (s : State) : Keeps s (execPbEraseDone s) := by simp [execPbEraseDone]
@[simp] theorem State.goBack_seal (s : State) (ep : Nat) : (s.goBack ep).seal = s.seal := by simp [State.goBack]
@[simp] theorem State.joinDone_seal (s : State) (ep : Nat) : (s.joinDone ep).seal = s.seal := by simp [State.joinDone]
@[simp] theorem State.ackIn_seal (s : State) (ep : Nat) (isAck : Bool) (a : Word) : (s.ackIn ep isAck a).seal = s.seal := by simp [State.ackIn]
@[simp] theorem State.sendAck_seal (s : State) (ep : Nat) : (s.sendAck ep).seal = s.seal := by simp [State.sendAck]
@[simp] theorem State.respond_seal (s : State) (ep : Nat) (f : SkFrame) (result : Nat) (data : List Byte) : (s.respond ep f result data).seal = s.seal := by simp [State.respond]
@[simp] theorem State.answerWrite_seal (s : State) (ep : Nat) (f : SkFrame) (reason : Nat) : (s.answerWrite ep f reason).seal = s.seal := by simp [State.answerWrite]
@[simp] theorem State.answerSubmit_seal (s : State) (ep q cnt : Nat) (param : List Byte) : (s.answerSubmit ep q cnt param).seal = s.seal := by simp [State.answerSubmit]
@[simp] theorem State.linkWake_seal (s : State) : (s.linkWake).seal = s.seal := by simp [State.linkWake]
@[simp] theorem State.submit_seal (s : State) (ep : Nat) (f : SkFrame) : (s.submit ep f).seal = s.seal := by unfold State.submit; dsimp only; (repeat' split) <;> simp
@[simp] theorem State.readWords_seal (n : Nat) (s : State) (p : Path) (w : Nat) : (State.readWords n s p w).2.seal = s.seal := by
  induction n generalizing s w with
  | zero => rfl
  | succ n ih => unfold State.readWords; simp [ih]
@[simp] theorem State.regRead_seal (s : State) (ep : Nat) (f : SkFrame) : (s.regRead ep f).seal = s.seal := by simp [State.regRead]
theorem State.regWrite_seal (s : State) (ep : Nat) (f : SkFrame) (h : fld f.param 0 1 ≠ 0x39) : (s.regWrite ep f).seal = s.seal := by
  unfold State.regWrite; dsimp only; (repeat' split) <;> simp [State.writeWord_seal _ _ _ _ h]
@[simp] theorem State.memRead_seal (s : State) (ep : Nat) (f : SkFrame) : (s.memRead ep f).seal = s.seal := by unfold State.memRead; dsimp only; (repeat' split) <;> simp
@[simp] theorem State.memWrite_seal (s : State) (ep : Nat) (f : SkFrame) : (s.memWrite ep f).seal = s.seal := by unfold State.memWrite; dsimp only; (repeat' split) <;> simp
theorem State.request_seal (s : State) (ep : Nat) (f : SkFrame) (h : f.ty.toNat ≠ tyWreg) : (s.request ep f).seal = s.seal := by
  unfold State.request; dsimp only; (repeat' split) <;> simp_all
@[simp] theorem State.submitOrHold_seal (s : State) (ep : Nat) (f : SkFrame) : (s.submitOrHold ep f).seal = s.seal := by simp [State.submitOrHold]
@[simp] theorem State.remoteWrite_seal (s : State) (allowed : Bool) (f : SkFrame) : (s.remoteWrite allowed f).2.seal = s.seal := by unfold State.remoteWrite; dsimp only; (repeat' split) <;> simp
@[simp] theorem State.hostWrite_seal (s : State) (ep : Nat) (f : SkFrame) : (s.hostWrite ep f).seal = s.seal := by simp [State.hostWrite]
@[simp] theorem State.sendIn_seal (s : State) (dev : Nat) (f : SkFrame) : (s.sendIn dev f).seal = s.seal := by simp [State.sendIn]
@[simp] theorem State.sendAnswered_seal (s : State) (dev n : Nat) : (s.sendAnswered dev n).seal = s.seal := by simp [State.sendAnswered]
@[simp] theorem State.writeAnswered_seal (s : State) (dev : Nat) (f : SkFrame) : (s.writeAnswered dev f).seal = s.seal := by unfold State.writeAnswered; dsimp only; (repeat' split) <;> simp
@[simp] theorem State.sendJoin_seal (s : State) (ep kind : Nat) : (s.sendJoin ep kind).seal = s.seal := by simp [State.sendJoin]
@[simp] theorem State.idConflict_seal (s : State) (f : SkFrame) : (s.idConflict f).seal = s.seal := by simp [State.idConflict]
@[simp] theorem State.joinIn_seal (s : State) (ep : Nat) (f : SkFrame) : (s.joinIn ep f).seal = s.seal := by simp [State.joinIn]
@[simp] theorem State.helloIn_seal (s : State) (ep : Nat) (f : SkFrame) : (s.helloIn ep f).seal = s.seal := by simp [State.helloIn]
@[simp] theorem State.skAdmits_seal (s : State) (f : SkFrame) (rule : Bool) : (s.skAdmits f rule).2.seal = s.seal := by unfold State.skAdmits; dsimp only; (repeat' split) <;> simp
theorem State.skHandle_seal (s : State) (ep : Nat) (f : SkFrame) (h : f.ty.toNat ≠ tyWreg) : (s.skHandle ep f).seal = s.seal := by
  unfold State.skHandle; dsimp only; (repeat' split) <;> simp [State.request_seal _ _ _ h]
theorem State.skSequence_seal (s : State) (f : SkFrame) (h : f.ty.toNat ≠ tyWreg) : (s.skSequence f).seal = s.seal := by
  unfold State.skSequence; dsimp only; (repeat' split) <;> simp [State.skHandle_seal _ _ _ h]
theorem State.skReceive_seal (s : State) (f : SkFrame) (h : f.ty.toNat ≠ tyWreg) : (s.skReceive f).seal = s.seal := by
  unfold State.skReceive; split
  · rename_i g; split <;> simp [State.skSequence_seal _ _ h, seal_snd g]
  · rename_i g; simp [seal_snd g]
theorem State.skArrive_seal (s : State) (f : SkFrame) (h : f.ty.toNat ≠ tyWreg) : (s.skArrive f).seal = s.seal := by
  unfold State.skArrive; dsimp only; (repeat' split) <;> simp [State.skReceive_seal _ _ h]
@[simp] theorem execSubmit_seal (f : SkFrame) (s : State) : Keeps s (execSubmit f s) := by
  simp only [execSubmit, keeps_done]; exact State.skArrive_seal _ _ (by simp only [typed]; decide)
@[simp] theorem execRreg_seal (f : SkFrame) (s : State) : Keeps s (execRreg f s) := by
  simp only [execRreg, keeps_done]; exact State.skArrive_seal _ _ (by simp only [typed]; decide)
@[simp] theorem execRmem_seal (f : SkFrame) (s : State) : Keeps s (execRmem f s) := by
  simp only [execRmem, keeps_done]; exact State.skArrive_seal _ _ (by simp only [typed]; decide)
@[simp] theorem execWmem_seal (f : SkFrame) (s : State) : Keeps s (execWmem f s) := by
  simp only [execWmem, keeps_done]; exact State.skArrive_seal _ _ (by simp only [typed]; decide)
@[simp] theorem execWwin_seal (f : SkFrame) (s : State) : Keeps s (execWwin f s) := by
  simp only [execWwin, keeps_done]; exact State.skArrive_seal _ _ (by simp only [typed]; decide)
@[simp] theorem execSendFrameReceive_seal (f : SkFrame) (s : State) : Keeps s (execSendFrameReceive f s) := by
  simp only [execSendFrameReceive, keeps_done]; exact State.skArrive_seal _ _ (by simp only [typed]; decide)
@[simp] theorem execWack_seal (f : SkFrame) (s : State) : Keeps s (execWack f s) := by
  simp only [execWack, keeps_done]; exact State.skArrive_seal _ _ (by simp only [typed]; decide)
@[simp] theorem execWnak_seal (f : SkFrame) (s : State) : Keeps s (execWnak f s) := by
  simp only [execWnak, keeps_done]; exact State.skArrive_seal _ _ (by simp only [typed]; decide)
@[simp] theorem execAck_seal (f : SkFrame) (s : State) : Keeps s (execAck f s) := by
  simp only [execAck, keeps_done]; exact State.skArrive_seal _ _ (by simp only [typed]; decide)
@[simp] theorem execJoin_seal (f : SkFrame) (s : State) : Keeps s (execJoin f s) := by
  simp only [execJoin, keeps_done]; exact State.skArrive_seal _ _ (by simp only [typed]; decide)
@[simp] theorem execHello_seal (f : SkFrame) (s : State) : Keeps s (execHello f s) := by
  simp only [execHello, keeps_done]; exact State.skArrive_seal _ _ (by simp only [typed]; decide)
@[simp] theorem execSendRangeRetry_seal (dev : Fin 64) (ssn : BitVec 48) (s : State) : Keeps s (execSendRangeRetry dev ssn s) := by unfold execSendRangeRetry; dsimp only; (repeat' split) <;> simp
@[simp] theorem execAckTimer_seal (ep : Fin 128) (s : State) : Keeps s (execAckTimer ep s) := by simp [execAckTimer]
@[simp] theorem execResendTimeout_seal (ep : Fin 128) (s : State) : Keeps s (execResendTimeout ep s) := by simp [execResendTimeout]
@[simp] theorem execHelloSend_seal (s : State) : Keeps s (execHelloSend s) := by simp [execHelloSend]
@[simp] theorem execPeerLost_seal (dev : Fin 64) (s : State) : Keeps s (execPeerLost dev s) := by simp [execPeerLost]
@[simp] theorem execIrqEventNotice_seal (s : State) : Keeps s (execIrqEventNotice s) := by simp [execIrqEventNotice]
@[simp] theorem State.sdrop_seal (s : State) (st : Nat) : (s.sdrop st).seal = s.seal := by simp [State.sdrop]
theorem State.dropEvent_seal (s : State) (st : Nat) (send : List Byte → State → Nat × State) (h : ∀ b t, (send b t).2.seal = t.seal) :
    (s.dropEvent st send).seal = s.seal := by
  unfold State.dropEvent; dsimp only; (repeat' split) <;> simp [h]
@[simp] theorem State.dropToSource_seal (s : State) (st : Nat) (port : Fin 8) (smac : BitVec 48) (dst : Byte) : (s.dropToSource st port smac dst).seal = s.seal := by
  unfold State.dropToSource; apply State.dropEvent_seal; intro b t; simp
@[simp] theorem State.dropToHosts_seal (s : State) (st : Nat) : (s.dropToHosts st).seal = s.seal := by
  unfold State.dropToHosts; apply State.dropEvent_seal; intro b t; simp
@[simp] theorem State.fillSlot_seal (s : State) (st : Nat) (h : SlotHead) (data : List Byte) : (s.fillSlot st h data).seal = s.seal := by simp [State.fillSlot]
theorem State.streamFrame_seal (s : State) (st kind : Nat) (evt : State → State) (h : SlotHead) (data : List Byte) (he : ∀ t, (evt t).seal = t.seal) :
    (s.streamFrame st kind evt h data).seal = s.seal := by
  unfold State.streamFrame; dsimp only; (repeat' split) <;> simp [he]
@[simp] theorem State.toStream_seal (s : State) (st : Nat) (fr : EthFrame) : (s.toStream st fr).seal = s.seal := by
  unfold State.toStream; dsimp only; split
  · (repeat' split) <;> first | simp; done | exact State.streamFrame_seal _ _ _ _ _ _ (fun t => by simp)
  · split
    · split
      · rename_i h; rw [State.streamFrame_seal _ _ _ _ _ _ (fun t => by simp)]; exact (seal_snd h).trans (State.skAdmits_seal _ _ _)
      · rename_i h; exact (seal_snd h).trans (State.skAdmits_seal _ _ _)
    · simp
  · simp
@[simp] theorem State.setMeter_seal (s : State) (k c e : Nat) (t : Quad) : (s.setMeter k c e t).seal = s.seal := by simp [State.setMeter]
@[simp] theorem State.meter_seal (s : State) (k : Nat) (fr : EthFrame) : (s.meter k fr).2.seal = s.seal := by unfold State.meter; dsimp only; (repeat' split) <;> simp
@[simp] theorem State.learn_seal (s : State) (fr : EthFrame) : (s.learn fr).seal = s.seal := by simp [State.learn]
@[simp] theorem State.bridge_seal (s : State) (fr : EthFrame) (cls : Nat) : (s.bridge fr cls).seal = s.seal := by simp [State.bridge]
theorem State.toLocal_seal (s : State) (fr : EthFrame) (h : ∀ f, fr.body = .skouk f → f.ty.toNat ≠ tyWreg) : (s.toLocal fr).seal = s.seal := by
  unfold State.toLocal; split
  · rename_i f hf; split
    · exact State.skReceive_seal _ _ (h f hf)
    · rfl
  · rfl
theorem State.classify_seal (s : State) (fr : EthFrame) (h : ∀ f, fr.body = .skouk f → f.ty.toNat ≠ tyWreg) : (s.classify fr).seal = s.seal := by
  unfold State.classify; dsimp only; (repeat' split) <;> simp [State.toLocal_seal _ _ h]
theorem State.receiveFrame_seal (s : State) (fr : EthFrame) (h : ∀ f, fr.body = .skouk f → f.ty.toNat ≠ tyWreg) : (s.receiveFrame fr).seal = s.seal := by
  unfold State.receiveFrame; dsimp only; (repeat' split) <;> simp [State.classify_seal _ _ h]
@[simp] theorem execStream_seal (fr : EthFrame) (s : State) : Keeps s (execStream fr s) := by
  unfold execStream; split
  · simp only [keeps_done]; exact State.receiveFrame_seal _ _ (by intro f hf; cases hf; simp only [typed]; decide)
  · simp
@[simp] theorem execAafFrame_seal (fr : EthFrame) (s : State) : Keeps s (execAafFrame fr s) := by
  unfold execAafFrame; split
  · rename_i a ha; simp only [keeps_done]; exact State.receiveFrame_seal _ _ (by intro f hf; rw [ha] at hf; cases hf)
  · simp
@[simp] theorem execLinkUp_seal (port : Fin 8) (partnerRates : BitVec 3) (s : State) : Keeps s (execLinkUp port partnerRates s) := by simp [execLinkUp]
@[simp] theorem execLinkDown_seal (port : Fin 8) (s : State) : Keeps s (execLinkDown port s) := by simp [execLinkDown]
@[simp] theorem execTimeSync_seal (t : Quad) (grandmaster : Bool) (s : State) : Keeps s (execTimeSync t grandmaster s) := by simp [execTimeSync]
@[simp] theorem State.watchSample_seal (s : State) (i c : Nat) (x : Int) : (s.watchSample i c x).seal = s.seal := by simp [State.watchSample]
@[simp] theorem State.auxBytes_seal (s : State) (st src n : Nat) (data : List Byte) : (s.auxBytes st src n data).seal = s.seal := by
  unfold State.auxBytes; dsimp only; (repeat' split) <;>
    first | simp; done | (rw [State.streamFrame_seal _ _ _ _ _ _ (fun t => by simp)]; simp)
@[simp] theorem execTdmFrame_seal (input : Fin 4) (slots : List Word) (s : State) : Keeps s (execTdmFrame input slots s) := by unfold execTdmFrame; dsimp only; (repeat' split) <;> simp
@[simp] theorem execTdmSyncLoss_seal (input : Fin 4) (s : State) : Keeps s (execTdmSyncLoss input s) := by unfold execTdmSyncLoss; dsimp only; (repeat' split) <;> simp
@[simp] theorem execSpiTransaction_seal (ctl : Fin 2) (bytes : List Byte) (s : State) : Keeps s (execSpiTransaction ctl bytes s) := by unfold execSpiTransaction; dsimp only; (repeat' split) <;> simp
@[simp] theorem execAuxSpiTimeout_seal (ctl : Fin 2) (s : State) : Keeps s (execAuxSpiTimeout ctl s) := by unfold execAuxSpiTimeout; (repeat' (first | split | (rename_i h; have := seal_snd h; clear h) | (rename_i h; have := seal_snd2 h; clear h))) <;> simp_all
@[simp] theorem State.powerDown_seal (s : State) : (s.powerDown).seal = s.seal := by unfold State.powerDown; rfl
@[simp] theorem State.allLinksDown_seal (s : State) : (s.allLinksDown).seal = s.seal := by simp [State.allLinksDown]
@[simp] theorem State.losePowered_seal (s : State) : s.losePowered.seal = s.seal := by
  unfold State.losePowered; dsimp only; rw [seal_with_dram_market, seal_forEach]; intro n t; simp
@[simp] theorem State.enter_seal (s : State) (r : BitVec 2) : (s.enter r).seal = s.seal := by simp [State.enter]
@[simp] theorem State.standbyDone_seal (s : State) : (s.standbyDone).seal = s.seal := by simp [State.standbyDone]
@[simp] theorem State.tc10Sleep_seal (s : State) : (s.tc10Sleep).seal = s.seal := by simp [State.tc10Sleep]
@[simp] theorem State.watchDone_seal (s : State) : s.watchDone.seal = s.seal := by
  have k : ∀ u : State, ((((u.modSec fun c => { c with regions := [] }).modPower fun p => { p with lowPower := true, request := none }).closeSession 1).entryEnd
      psWatch |>.attestSettle).seal = u.seal := by intro u; simp
  exact (k s.tc10Sleep.allLinksDown.losePowered).trans (by simp)
@[simp] theorem execStandbyEntry_seal (s : State) : Keeps s (execStandbyEntry s) := by simp [execStandbyEntry]
@[simp] theorem execWatchEntry_seal (s : State) : Keeps s (execWatchEntry s) := by unfold execWatchEntry; dsimp only; (repeat' split) <;> simp
@[simp] theorem State.powerEngine_seal (s : State) (n : Nat) : (s.powerEngine n).seal = s.seal := by simp [State.powerEngine]
@[simp] theorem State.powerSlice_seal (s : State) (n : Nat) : (s.powerSlice n).seal = s.seal := by simp [State.powerSlice]
@[simp] theorem State.wakeAlways_seal (s : State) (src : Nat) : (s.wakeAlways src).seal = s.seal := by simp [State.wakeAlways]
@[simp] theorem execWakeIn_seal (highNs : Nat) (s : State) : Keeps s (execWakeIn highNs s) := by simp [execWakeIn]
@[simp] theorem execWakeTimerExpiry_seal (s : State) : Keeps s (execWakeTimerExpiry s) := by simp [execWakeTimerExpiry]
@[simp] theorem execTc10Wake_seal (port : Fin 8) (s : State) : Keeps s (execTc10Wake port s) := by simp [execTc10Wake]
@[simp] theorem State.toOff_seal (s : State) : s.toOff.seal = s.seal := by
  have k : ∀ u : State, ((({ u with ledger := [], mirror := [], badP := [], badM := [], jobs := [], runs := [], areas := [], cells := [], slots := [] } : State).modDev
      fun d => { d with pstate := psOff }).modPower fun p => { p with
        lowPower := true, request := none, wakeLatched := false, lateReq := none, entering := 0 }).seal = u.seal := by intro u; rfl
  exact (k (s.closeSession 2).powerDown.allLinksDown.losePowered).trans (by simp)
@[simp] theorem execRailRemovalInWatch_seal (mask : BitVec 4) (s : State) : Keeps s (execRailRemovalInWatch mask s) := by simp [execRailRemovalInWatch]
@[simp] theorem execRailLost_seal (mask : BitVec 4) (s : State) : Keeps s (execRailLost mask s) := by simp [execRailLost]
@[simp] theorem State.powerFail_seal (s : State) (trigger : Nat) : (s.powerFail trigger).seal = s.seal := by simp [State.powerFail]
@[simp] theorem execPfailN_seal (lowNs : Nat) (s : State) : Keeps s (execPfailN lowNs s) := by simp [execPfailN]
@[simp] theorem execPfailNRelease_seal (s : State) : Keeps s (execPfailNRelease s) := by simp [execPfailNRelease]
@[simp] theorem State.belowPF_seal (s : State) : (s.belowPF).seal = s.seal := by simp [State.belowPF]
@[simp] theorem execVauxPf_seal (s : State) : Keeps s (execVauxPf s) := by simp [execVauxPf]
@[simp] theorem execVauxInh_seal (s : State) : Keeps s (execVauxInh s) := by simp [execVauxInh]
@[simp] theorem State.countStep_seal (s t : State) : (s.countStep t).seal = t.seal := by unfold State.countStep; split <;> simp
@[simp] theorem State.powerStep_seal (s : State) (avg10us avg1ms vinAmps : Nat) : (s.powerStep avg10us avg1ms vinAmps).seal = s.seal := by simp [State.powerStep]
@[simp] theorem execPowerEstimate_seal (avg10us avg1ms vinAmps : Nat) (s : State) : Keeps s (execPowerEstimate avg10us avg1ms vinAmps s) := by unfold execPowerEstimate; dsimp only; (repeat' split) <;> simp
@[simp] theorem State.readTj_seal (s : State) (tj : Int) : (s.readTj tj).seal = s.seal := by simp [State.readTj]
@[simp] theorem State.thermalStep_seal (s : State) (tj : Int) : (s.thermalStep tj).seal = s.seal := by simp [State.thermalStep]
@[simp] theorem execThermalStep_seal (tj : Int) (s : State) : Keeps s (execThermalStep tj s) := by unfold execThermalStep; (repeat' (first | split | (rename_i h; have := seal_snd h; clear h) | (rename_i h; have := seal_snd2 h; clear h))) <;> simp_all
@[simp] theorem State.thermalDerate_seal (s : State) (tj : Int) : (s.thermalDerate tj).seal = s.seal := by simp [State.thermalDerate]
@[simp] theorem execThermalDerate_seal (tj : Int) (s : State) : Keeps s (execThermalDerate tj s) := by unfold execThermalDerate; (repeat' (first | split | (rename_i h; have := seal_snd h; clear h) | (rename_i h; have := seal_snd2 h; clear h))) <;> simp_all
@[simp] theorem execThermtrip_seal (tj : Int) (s : State) : Keeps s (execThermtrip tj s) := by unfold execThermtrip; dsimp only; (repeat' split) <;> simp
@[simp] theorem execWrstN_seal (lowNs : Nat) (s : State) : Keeps s (execWrstN lowNs s) := by unfold execWrstN; dsimp only; (repeat' split) <;> simp
@[simp] theorem State.resetLogic_seal (s : State) : s.resetLogic.seal = s.seal := by
  unfold State.resetLogic; dsimp only
  generalize hu : (if s.enginesOn = true then forEach (List.range 24) (fun n s => s.cutTile n fun _ => true) s else s.powerDown) = u
  have h : u.seal = s.seal := by rw [← hu]; split <;> simp
  exact h
@[simp] theorem State.resetMarket_seal (s : State) : s.resetMarket.seal = s.seal := by
  unfold State.resetMarket
  generalize hu : forEach (List.range 128) (fun ep s => if ((s.peer ep).present || (s.peer ep).joined) && !(s.peer ep).down then s.bump 7 ep 2 1 else s) s = u
  have h : u.seal = s.seal := by rw [← hu]; apply seal_forEach; intro n t; split <;> simp
  rw [← h]
  refine (seal_forEach ?_ _).trans ?_
  · intro n t; dsimp only; split <;> simp
  rw [State.modDev_seal _ _ (by simp)]
  refine (seal_forEach ?_ _).trans rfl
  intro n t; simp
@[simp] theorem State.resetHearth_seal (s : State) : (s.resetHearth).seal = s.seal := by simp [State.resetHearth]
@[simp] theorem execWarmReset_seal (s : State) : Keeps s (execWarmReset s) := by unfold execWarmReset; dsimp only; (repeat' split) <;> simp
@[simp] theorem State.checkEntry_seal (s : State) (e : Nat) : (s.checkEntry e).seal = s.seal := by simp [State.checkEntry]
@[simp] theorem State.recover1_seal (s : State) : (s.recover1).seal = s.seal := by simp [State.recover1]
@[simp] theorem State.recover3_seal (s : State) : (s.recover3).seal = s.seal := by simp [State.recover3]
@[simp] theorem State.recover4_seal (s : State) : s.recover4.seal = s.seal := by
  unfold State.recover4; apply seal_forEach; intro e t; split
  · split <;> simp
  · rfl
@[simp] theorem State.reopen_seal (s : State) (e : Nat) (w : WinRec) : (s.reopen e w).seal = s.seal := by unfold State.reopen; dsimp only; (repeat' split) <;> simp
@[simp] theorem State.recover5_seal (s : State) : (s.recover5).seal = s.seal := by simp [State.recover5]
@[simp] theorem State.postAll_seal (n : Nat) (s : State) (q : Nat) : (State.postAll n s q).seal = s.seal := by
  induction n generalizing s with
  | zero => rfl
  | succ n ih =>
    unfold State.postAll; split
    · split <;> simp [ih]
    · rfl
@[simp] theorem State.recover6_seal (s : State) : (s.recover6).seal = s.seal := by simp [State.recover6]
@[simp] theorem State.rebuild_seal (s : State) (e : Nat) : (s.rebuild e).seal = s.seal := by unfold State.rebuild; dsimp only; (repeat' split) <;> simp
@[simp] theorem State.rehold_seal (s : State) (e : Nat) : (s.rehold e).seal = s.seal := by simp [State.rehold]
@[simp] theorem State.recover78_seal (s : State) : (s.recover78).seal = s.seal := by simp [State.recover78]
@[simp] theorem State.recoverHead_seal (s : State) (q : Nat) : (s.recoverHead q).seal = s.seal := by
  unfold State.recoverHead; apply seal_forEach; intro e t; split
  · dsimp only; split <;> simp
  · rfl
@[simp] theorem State.resubmit_seal (s : State) (st : Nat) : (s.resubmit st).seal = s.seal := by simp [State.resubmit]
@[simp] theorem State.recover9_seal (s : State) (lost : Nat) : (s.recover9 lost).seal = s.seal := by simp [State.recover9]
@[simp] theorem State.exitGoesOn_seal (s : State) (chan : Bool) : (s.exitGoesOn chan).seal = s.seal := by unfold State.exitGoesOn; (repeat' (first | split | (rename_i h; have := seal_snd h; clear h) | (rename_i h; have := seal_snd2 h; clear h))) <;> simp_all
@[simp] theorem execRecovery_seal (s : State) : Keeps s (execRecovery s) := by unfold execRecovery; dsimp only; (repeat' split) <;> simp
@[simp] theorem State.tapRead_seal (s : State) (v : Word) : (s.tapRead v).seal = s.seal := by simp [State.tapRead]
@[simp] theorem State.tapSecbuf_seal (s : State) (scan : TapScan) : (s.tapSecbuf scan).seal = s.seal := by unfold State.tapSecbuf; (repeat' (first | split | (rename_i h; have := seal_snd h; clear h) | (rename_i h; have := seal_snd2 h; clear h))) <;> simp_all
@[simp] theorem State.tapReg_seal (s : State) (scan : TapScan) : (s.tapReg scan).seal = s.seal := by unfold State.tapReg; dsimp only; (repeat' split) <;> simp
@[simp] theorem State.tapMem_seal (s : State) (scan : TapScan) : (s.tapMem scan).seal = s.seal := by unfold State.tapMem; dsimp only; (repeat' split) <;> simp
@[simp] theorem State.tapOpen_seal (s : State) (scan : TapScan) : (s.tapOpen scan).seal = s.seal := by unfold State.tapOpen; (repeat' (first | split | (rename_i h; have := seal_snd h; clear h) | (rename_i h; have := seal_snd2 h; clear h))) <;> simp_all
@[simp] theorem execTrstN_seal (s : State) : Keeps s (execTrstN s) := by simp [execTrstN]

end Sys2Proof.Machine
end

