-- ==== Sys2Proof/Laws/Life.lean ====
section
/-! SUPPORT. The commands that may change a fuse: what a boot, a lifecycle transition and ROLLFWD do to the lifecycle state, the anti-rollback count and
the device secret, and the ways by which a register write reaches them. -/

namespace Sys2Proof.Machine

/-! ## Boots -/

/-- What no boot changes: the queue and the fuses. -/
def State.fuses (s : State) : List Instr × BitVec 4 × Nat × Bool := (s.pending, s.sec.lc, s.sec.svf, s.sec.dsWritten)

theorem State.fuses_of_seal {s t : State} (h : t.seal = s.seal) : t.fuses = s.fuses := by
  simp only [State.seal, Prod.mk.injEq] at h
  simp [State.fuses, h.1, h.2.1, h.2.2.1, h.2.2.2.1]

theorem State.modDev_fuses (s : State) (f : Dev → Dev) : (s.modDev f).fuses = s.fuses := rfl
theorem State.modPower_fuses (s : State) (f : Power → Power) : (s.modPower f).fuses = s.fuses := rfl
theorem State.modSec_fuses (s : State) (f : Sec → Sec)
    (h : (f s.sec).lc = s.sec.lc ∧ (f s.sec).svf = s.sec.svf ∧ (f s.sec).dsWritten = s.sec.dsWritten) : (s.modSec f).fuses = s.fuses := by
  simp [State.fuses, State.modSec, h.1, h.2.1, h.2.2]

theorem State.stage1_fuses (s : State) (slot : Nat) (f : Nat → Byte) : (s.stage1 slot f).fuses = s.fuses := by
  unfold State.stage1; dsimp only
  rw [State.modDev_fuses, State.fuses_of_seal (State.record_seal _ _ _ _ _ _), State.modDev_fuses, State.fuses_of_seal (State.storeProgrammed_seal _)]
  exact State.modSec_fuses _ _ ⟨rfl, rfl, rfl⟩

theorem State.boot_fuses (s : State) : s.boot.fuses = s.fuses := by
  unfold State.boot; dsimp only; (repeat' split) <;>
    first | rfl | (rw [State.stage1_fuses]; rfl)

theorem State.coldReset_fuses (s : State) : s.coldReset.fuses = s.fuses := (State.fuses_of_seal s.cutErase_seal : s.cutErase.fuses = s.fuses)

theorem State.resetBoot_fuses (s : State) : s.resetBoot.fuses = s.fuses := by
  unfold State.resetBoot; dsimp only; (repeat' split)
  · exact s.coldReset_fuses
  · exact s.coldReset_fuses
  · rw [State.boot_fuses, State.fuses_of_seal (State.countPowerUp_seal _)]; exact s.coldReset_fuses

theorem State.brownoutBoot_fuses (s : State) (p : Nat) : (s.brownoutBoot p).fuses = s.fuses := by
  unfold State.brownoutBoot; rw [State.fuses_of_seal (State.record_seal _ _ _ _ _ _), State.resetBoot_fuses]; rfl

/-- The outcome leaves the queue and the fuses alone. -/
def KeepsFuses (s : State) (o : Host.Outcome State Fault Refusal) : Prop := ∀ t, o = .next t → t.fuses = s.fuses

theorem KeepsFuses.done {s t : State} (h : t.fuses = s.fuses) : KeepsFuses s (done t) := by
  intro u hu; cases hu; exact (State.fuses_of_seal t.settle_seal).trans h

theorem Keeps.fuses {s : State} {o : Host.Outcome State Fault Refusal} (h : Keeps s o) : KeepsFuses s o := fun t ht => State.fuses_of_seal (h t ht)

theorem execPorstN_fuses (b : BitVec 2) (d : BitVec 6) (s : State) : KeepsFuses s (execPorstN b d s) := by
  refine KeepsFuses.done ?_
  rw [State.resetBoot_fuses, State.modPower_fuses, State.modDev_fuses, State.modSec_fuses _ _ ⟨rfl, rfl, rfl⟩]
  exact State.fuses_of_seal (State.programAll_seal _ _)

theorem execPorstNAsserted_fuses (s : State) : KeepsFuses s (execPorstNAsserted s) := by
  unfold execPorstNAsserted; dsimp only; split
  · exact KeepsFuses.done s.coldReset_fuses
  · exact KeepsFuses.done s.coldReset_fuses

theorem execHearthBrownout_fuses (s : State) : KeepsFuses s (execHearthBrownout s) := by
  refine KeepsFuses.done ?_
  rw [State.coldReset_fuses, State.modPower_fuses]; exact State.fuses_of_seal s.cutFlush_seal

theorem execVhrtOk_fuses (s : State) : KeepsFuses s (execVhrtOk s) := by
  unfold execVhrtOk; dsimp only; split
  · refine KeepsFuses.done ?_; rw [State.brownoutBoot_fuses]; rfl
  · exact KeepsFuses.done rfl

theorem execVauxOk_fuses (s : State) : KeepsFuses s (execVauxOk s) := by
  refine KeepsFuses.done ?_
  by_cases h : (!s.power.belowPF && !s.power.inhibit && s.power.vauxWasOk) = true
  · rw [if_pos h]
  rw [if_neg h]; dsimp only
  have k : ∀ (u : State) (c : Option (BitVec 2 × Word)) (b d : Bool),
      (if d then (if b then (match c with | some c => u.record 0x0305 c.1.toNat c.2.toNat 0 0 | none => u).flush
        else (match c with | some c => u.record 0x0305 c.1.toNat c.2.toNat 0 0 | none => u)).countPowerUp.boot
       else (if b then (match c with | some c => u.record 0x0305 c.1.toNat c.2.toNat 0 0 | none => u).flush
        else (match c with | some c => u.record 0x0305 c.1.toNat c.2.toNat 0 0 | none => u))).fuses = u.fuses := by
    intro u c b d
    have hc : (match c with | some c => u.record 0x0305 c.1.toNat c.2.toNat 0 0 | none => u).seal = u.seal := by split <;> simp
    split
    · rw [State.boot_fuses]; exact State.fuses_of_seal (by split <;> simp [hc])
    · exact State.fuses_of_seal (by split <;> simp [hc])
  refine (k _ _ _ _).trans ?_
  exact State.fuses_of_seal (by simp)

/-! ## Growth -/

/-- What a command may do to the fuses: the lifecycle state stays or goes forward to a legal one, the device secret stays written, and the anti-rollback
count stays or rises to the SVN of the booted image. The last two fields say what holds while the part has not been reset, which lets one growth follow
another. -/
structure State.Grows (s t : State) : Prop where
  pending : t.pending = s.pending
  ds : s.sec.dsWritten = true → t.sec.dsWritten = true
  svf : t.sec.svf = s.sec.svf ∨ s.sec.svf < t.sec.svf ∧ t.sec.svf = s.dev.bootSvn.toNat
  lc : t.sec.lc = s.sec.lc ∨ s.sec.lc.toNat < t.sec.lc.toNat ∧ t.LifecycleLegal
  stay : t.sec.lc = s.sec.lc → t.dev.bootok = s.dev.bootok → s.dev.bootok = true → t.dev.bootSvn = s.dev.bootSvn
  idle : s.dev.bootok = false → t.sec.svf = s.sec.svf

theorem State.grows_congr {s s' t t' : State} (hs : s'.seal = s.seal) (ht : t'.seal = t.seal) (h : s.Grows t) : s'.Grows t' := by
  simp only [State.seal, Prod.mk.injEq] at hs ht
  obtain ⟨s1, s2, s3, s4, s5, s6⟩ := hs
  obtain ⟨t1, t2, t3, t4, t5, t6⟩ := ht
  obtain ⟨h1, h2, h3, h4, h5, h6⟩ := h
  constructor
  · rw [t1, s1, h1]
  · rw [t4, s4]; exact h2
  · rw [t3, s3, s5]; exact h3
  · simp only [State.LifecycleLegal] at h4 ⊢; rw [t2, s2]; exact h4
  · rw [t2, s2, t6, s6, t5, s5]; exact h5
  · rw [s6, t3, s3]; exact h6

theorem State.grows_of_seal {s t : State} (h : t.seal = s.seal) : s.Grows t :=
  State.grows_congr (s := s) (t := s) rfl h ⟨rfl, id, .inl rfl, .inl rfl, fun _ _ _ => rfl, fun _ => rfl⟩

/-- A growth of a part that another has not reset follows it. -/
theorem State.grows_trans {s t u : State} (h : s.Grows t) (hr : t.resetSince s.sec.lc s.dev.bootok = false) (k : t.Grows u) : s.Grows u := by
  simp only [State.resetSince, Bool.or_eq_false_iff, bne_eq_false_iff_eq] at hr
  obtain ⟨r1, r2⟩ := hr
  have hb := h.stay r1 r2
  constructor
  · rw [k.pending, h.pending]
  · exact fun x => k.ds (h.ds x)
  · cases hok : s.dev.bootok with
    | false => left; rw [k.idle (r2.trans hok), h.idle hok]
    | true =>
      have hb := hb hok
      rcases h.svf with a | ⟨a, b⟩ <;> rcases k.svf with c | ⟨c, d⟩
      · left; rw [c, a]
      · right; exact ⟨by omega, by rw [d, hb]⟩
      · right; exact ⟨by omega, by rw [c, b]⟩
      · rw [hb] at d; omega
  · rw [← r1]; exact k.lc
  · intro a b c; rw [k.stay (a.trans r1.symm) (b.trans r2.symm) (r2.trans c), hb c]
  · intro a; rw [k.idle (r2.trans a), h.idle a]

/-! ## Operations that read a token -/

/-- A token operation changes no fuse, or every test passes and it acts. -/
theorem State.tokenOp_cases (s : State) (p : Path) (op : Nat) (ps : List Nat) (more : Token → List Nat) (act : Token → State → State) :
    (s.tokenOp p op ps more act).seal = s.seal ∨
    (s.tokenFails (s.token 0) ps = [] ∧ more (s.token 0) = [] ∧
      s.tokenOp p op ps more act = act (s.token 0) (s.tick.modSec fun c => { c with nonce := none })) := by
  unfold State.tokenOp; dsimp only
  generalize hf : s.tokenFails (s.token 0) ps ++ more (s.token 0) = fails
  split
  · left; simp
  · right
    rename_i h
    have hl : fails = [] := by
      rw [List.getElem?_eq_none_iff] at h
      rcases fails with _ | ⟨a, l⟩
      · rfl
      · exfalso
        have := Nat.mod_lt ((s.tick.modSec fun c => { c with nonce := none }).free) (show 0 < max 1 (a :: l).length by omega)
        simp only [List.length_cons] at h this
        omega
    subst hl
    rw [List.append_eq_nil_iff] at hf
    exact ⟨hf.1, hf.2, rfl⟩

/-- The lifecycle state a token of LIFECYCLE leads to lies ahead of the present one (R706). -/
theorem lcTarget_ahead {s : State} {t : Token} {ps : List Nat} (h : s.tokenFails t ps = []) (hp : ∀ x ∈ ps, x = 3 ∨ x = 4 ∨ x = 5 ∨ x = 7) :
    s.sec.lc.toNat < lcTarget t.purpose ∧ lcTarget t.purpose ∈ [3, 5, 9, 15] := by
  unfold State.tokenFails at h; dsimp only at h
  simp only [List.append_eq_nil_iff] at h
  have h4 := h.2
  have hs : ps.contains t.purpose && signerOk s.sec.lc.toNat t.purpose t.signer := by
    cases hc : (ps.contains t.purpose && signerOk s.sec.lc.toNat t.purpose t.signer) with
    | true => rfl
    | false => rw [hc] at h4; simp at h4
  simp only [Bool.and_eq_true, List.contains_iff_mem] at hs
  obtain ⟨hm, hk⟩ := hs
  have hlt := s.sec.lc.isLt
  rcases hp _ hm with e | e | e | e <;> rw [e] at hk ⊢ <;> simp [signerOk, lcTarget] at hk ⊢ <;> omega

theorem State.transition_grows (s : State) (t : Token) (h : s.sec.lc.toNat < lcTarget t.purpose) (hm : lcTarget t.purpose ∈ [3, 5, 9, 15])
    (hb : s.dev.bootok = true) : s.Grows (s.transition t) := by
  have key : (s.transition t).fuses = (s.pending, BitVec.ofNat 4 (lcTarget t.purpose), s.sec.svf, s.sec.dsWritten || lcTarget t.purpose == 3) := by
    unfold State.transition; dsimp only
    rw [State.resetBoot_fuses, State.fuses_of_seal (State.programAll_seal _ _), State.fuses_of_seal (State.flush_seal _),
      State.fuses_of_seal (State.record_seal _ _ _ _ _ _)]
    have k1 : ∀ u : State, ((({ u.zeroEngines.zeroGranary.zeroWatch with dram := [] } : State)).fuses) = u.fuses := by
      intro u; exact (show _ = u.zeroEngines.zeroGranary.zeroWatch.fuses from rfl).trans (State.fuses_of_seal (by simp))
    have k0 := (k1 (s.closeSession 4)).trans (State.fuses_of_seal (s.closeSession_seal 4))
    generalize ({ (s.closeSession 4).zeroEngines.zeroGranary.zeroWatch with dram := [] } : State) = u at k0 ⊢
    simp only [State.fuses, Prod.mk.injEq] at k0
    obtain ⟨a, b, c, d⟩ := k0
    (repeat' split) <;> simp [State.fuses, State.modSec, a, c, d]
  simp only [State.fuses, Prod.mk.injEq] at key
  obtain ⟨k1, k2, k3, k4⟩ := key
  have hlc : (s.transition t).sec.lc.toNat = lcTarget t.purpose := by
    rw [k2]; simp only [List.mem_cons, List.not_mem_nil, or_false] at hm; rcases hm with e | e | e | e <;> rw [e] <;> rfl
  constructor
  · exact k1
  · intro x; rw [k4, x]; rfl
  · exact .inl k3
  · right
    refine ⟨by omega, ?_⟩
    unfold State.LifecycleLegal; rw [k2]
    simp only [List.mem_cons, List.not_mem_nil, or_false] at hm
    rcases hm with e | e | e | e <;> rw [e] <;> decide
  · intro x; rw [← x] at h; omega
  · intro x; rw [hb] at x; cases x

theorem State.lifecycleOp_grows (s : State) (p : Path) (hb : s.dev.bootok = true) : s.Grows (s.lifecycleOp p) := by
  unfold State.lifecycleOp
  rcases s.tokenOp_cases p 0x05 [3, 4, 5, 7] _ (fun t s => s.transition t) with h | ⟨h1, _, h3⟩
  · exact State.grows_of_seal h
  · rw [h3]
    obtain ⟨a, b⟩ := lcTarget_ahead h1 (by simp)
    have hs : (s.tick.modSec fun c => { c with nonce := none }).seal = s.seal := by simp
    exact State.grows_congr hs.symm rfl (State.transition_grows _ _ a b hb)

theorem State.rollfwdOp_grows (s : State) (p : Path) (hb : s.dev.bootok = true) : s.Grows (s.rollfwdOp p) := by
  unfold State.rollfwdOp
  rcases s.tokenOp_cases p 0x08 [8] _ (fun t s =>
    let old := s.sec.svf
    ((s.modSec fun c => { c with svf := max c.svf t.arg }).record 0x0006 old (max old t.arg) 0 0).authEnd arOk) with h | ⟨_, h2, h3⟩
  · exact State.grows_of_seal h
  · rw [h3]
    have ha : (s.token 0).arg = s.dev.bootSvn.toNat := by
      rw [List.append_eq_nil_iff] at h2
      have := h2.1
      split at this
      · cases this
      · split at this
        · cases this
        · omega
    dsimp only
    refine State.grows_congr (t := s.modSec fun c => { c with svf := max c.svf (s.token 0).arg }) rfl ?_ ?_
    · rw [State.authEnd_seal, State.record_seal]; rfl
    · constructor
      · rfl
      · exact id
      · show max s.sec.svf (s.token 0).arg = s.sec.svf ∨ s.sec.svf < max s.sec.svf (s.token 0).arg ∧ max s.sec.svf (s.token 0).arg = s.dev.bootSvn.toNat
        omega
      · exact .inl rfl
      · intro _ _ _; rfl
      · intro x; rw [hb] at x; cases x

/-! ## The ways to them -/

theorem State.romUpdate_grows (s : State) (hb : s.dev.bootok = false) : s.Grows s.romUpdate := by
  unfold State.romUpdate; dsimp only; split
  · have k : ((s.stage1 2 s.byte).authEnd arOk).fuses = s.fuses := (State.fuses_of_seal (State.authEnd_seal _ _)).trans (s.stage1_fuses _ _)
    simp only [State.fuses, Prod.mk.injEq] at k
    obtain ⟨a, b, c, d⟩ := k
    exact ⟨a, fun x => d.trans x, .inl c, .inl b, fun _ _ x => (by rw [hb] at x; cases x), fun _ => c⟩
  · exact State.grows_of_seal (by simp)

theorem State.authOp_grows (s : State) (p : Path) (op : Nat) : s.Grows (s.authOp p op) := by
  by_cases h5 : op ≠ 0x05 ∧ op ≠ 0x08 ∧ op ≠ 0x0C
  · exact State.grows_of_seal (s.authOp_seal p op h5.1 h5.2.1 h5.2.2)
  have hk : (s.modSec fun c => { c with busy := true, lastop := BitVec.ofNat 8 op }).seal = s.seal := by simp
  unfold State.authOp
  by_cases hb : (!s.mayAuth p || s.sec.busy || op = 0 || s.sec.lc = 0xF || s.dev.pstate == psOff) = true
  · rw [if_pos hb]; exact State.grows_of_seal rfl
  rw [if_neg hb]
  refine State.grows_congr hk.symm rfl ?_
  generalize (s.modSec fun c => { c with busy := true, lastop := BitVec.ofNat 8 op }) = u
  clear hb hk
  dsimp only
  cases hok : u.dev.bootok with
  | false =>
    rw [if_pos (by rfl)]; split
    · exact u.romUpdate_grows hok
    · exact State.grows_of_seal (by simp)
  | true =>
    rw [if_neg (by simp)]
    have : op = 0x05 ∨ op = 0x08 ∨ op = 0x0C := by omega
    rcases this with e | e | e
    · subst e; exact u.lifecycleOp_grows p hok
    · subst e; exact u.rollfwdOp_grows p hok
    · subst e; exact State.grows_of_seal u.updateOp_seal

theorem State.writeWord_grows (s : State) (p : Path) (w : Nat) (v : Word) : s.Grows (s.writeWord p w v) := by
  by_cases h : w = 0x39
  · subst h; exact s.authOp_grows p _
  · exact State.grows_of_seal (s.writeWord_seal p w v h)

theorem State.access_grows (s : State) (w : Nat) (a : WrAcc) : s.Grows (s.access w a) := by
  unfold State.access; have := s.wrAcc_seal w a; dsimp only; split
  · exact State.grows_congr this.symm rfl (State.writeWord_grows _ _ _ _)
  · exact State.grows_of_seal rfl

theorem State.regWrite_grows (s : State) (ep : Nat) (f : SkFrame) : s.Grows (s.regWrite ep f) := by
  unfold State.regWrite; dsimp only
  split
  · exact State.grows_of_seal (by simp)
  split
  · exact State.grows_of_seal (by simp)
  split
  · exact State.writeWord_grows _ _ _ _
  · exact State.grows_congr rfl (State.respond_seal _ _ _ _ _) (State.writeWord_grows _ _ _ _)

theorem State.request_grows (s : State) (ep : Nat) (f : SkFrame) : s.Grows (s.request ep f) := by
  by_cases h : f.ty.toNat = tyWreg
  · unfold State.request
    simp only [h]
    have hm : (tyWreg == tyRmem || tyWreg == tyWmem) = false := by decide
    simp only [hm]
    (repeat' split) <;> first | exact State.grows_of_seal (by simp) | exact s.regWrite_grows ep f | contradiction
  · exact State.grows_of_seal (s.request_seal ep f h)

theorem State.skHandle_grows (s : State) (ep : Nat) (f : SkFrame) : s.Grows (s.skHandle ep f) := by
  unfold State.skHandle; dsimp only
  (repeat' split) <;> first | exact s.request_grows ep f | exact State.grows_of_seal (by simp)

theorem State.skSequence_grows (s : State) (f : SkFrame) : s.Grows (s.skSequence f) := by
  by_cases h : f.ty.toNat = tyWreg
  · unfold State.skSequence; dsimp only
    (repeat' split) <;>
      first
        | (refine State.grows_congr ?_ (State.sendAck_seal _ _) (State.skHandle_grows _ _ _); simp; done)
        | (refine State.grows_congr ?_ rfl (State.skHandle_grows _ _ _); simp; done)
        | (refine State.grows_of_seal ?_; simp; done)
  · exact State.grows_of_seal (s.skSequence_seal f h)

theorem State.skReceive_grows (s : State) (f : SkFrame) : s.Grows (s.skReceive f) := by
  unfold State.skReceive; split
  · rename_i t g
    have k := (seal_snd g).trans (State.skAdmits_seal _ _ _)
    split
    · exact State.grows_of_seal k
    · exact State.grows_congr k.symm rfl (State.skSequence_grows _ _)
  · rename_i t g
    exact State.grows_of_seal ((seal_snd g).trans (State.skAdmits_seal _ _ _))

theorem State.skArrive_grows (s : State) (f : SkFrame) : s.Grows (s.skArrive f) := by
  unfold State.skArrive; dsimp only
  split
  · exact State.grows_of_seal rfl
  split
  · exact State.grows_of_seal (by simp)
  split
  · exact State.grows_congr (by simp) rfl (State.skReceive_grows (s.bump 5 f.port.val 0 1) f)
  · exact State.grows_of_seal (by simp)

theorem State.toLocal_grows (s : State) (fr : EthFrame) : s.Grows (s.toLocal fr) := by
  unfold State.toLocal; split
  · split
    · exact State.skReceive_grows _ _
    · exact State.grows_of_seal rfl
  · exact State.grows_of_seal rfl

theorem State.classify_grows (s : State) (fr : EthFrame) : s.Grows (s.classify fr) := by
  unfold State.classify; split
  · dsimp only
    rename_i i hi
    generalize hr : (if s.clsByte (32 * i + 22) < 64 then s.meter (s.clsByte (32 * i + 22)) fr else (true, s)) = r
    have k : r.2.seal = s.seal := by rw [← hr]; split <;> simp
    (repeat' split) <;> first | exact State.grows_congr k.symm rfl (State.toLocal_grows _ _) | exact State.grows_of_seal (by simp [k])
  · split
    · exact State.toLocal_grows _ _
    · exact State.grows_of_seal (by simp)

theorem State.receiveFrame_grows (s : State) (fr : EthFrame) : s.Grows (s.receiveFrame fr) := by
  unfold State.receiveFrame; dsimp only
  (repeat' split) <;>
    first | exact State.grows_of_seal (by simp) | exact State.grows_congr (by simp) rfl (State.classify_grows (s.bump 5 fr.port.val 0 1) fr)

/-- Held requests run one after another until one resets the part (R630, R713). -/
theorem State.runHeld_grows (s : State) : s.Grows s.runHeld := by
  unfold State.runHeld
  refine forEach_ind (P := fun t => s.Grows t) (State.grows_of_seal rfl) ?_
  intro ep _ t ht
  dsimp only
  split
  · exact ht
  refine forEach_ind (P := fun t => s.Grows t) (State.grows_congr rfl (State.modPeer_seal _ _ _) ht) ?_
  intro f _ u hu
  split
  · exact hu
  rename_i hr
  simp only [Bool.not_eq_true] at hr
  refine State.grows_trans hu hr ?_
  split
  · exact State.grows_of_seal (by simp)
  · exact u.request_grows ep f

theorem State.restoreDone_grows (s : State) : s.Grows s.restoreDone := by
  have k : ∀ u : State, u.seal = s.seal → s.Grows u.attestSettle.runHeld.wakeEngines.retryAll := fun u h =>
    State.grows_congr ((State.attestSettle_seal u).trans h).symm ((State.retryAll_seal _).trans (State.wakeEngines_seal _)) u.attestSettle.runHeld_grows
  unfold State.restoreDone
  refine k _ ?_
  (repeat' split) <;> simp

theorem State.restoreDomain_grows (s : State) (e : Nat) : s.Grows (s.restoreDomain e) := by
  unfold State.restoreDomain
  (repeat' split) <;> first | (with_reducible exact s.restoreDone_grows) | exact State.grows_of_seal (by simp)

theorem State.tapAuth_grows (s : State) (scan : TapScan) : s.Grows (s.tapAuth scan) := by
  unfold State.tapAuth; split
  · split <;> exact State.grows_of_seal (by simp)
  · split
    · exact s.writeWord_grows _ _ _
    · exact State.grows_of_seal rfl
  · exact State.grows_of_seal rfl

theorem State.tapScan_grows (s : State) (i : Nat) (scan : TapScan) : s.Grows (s.tapScan i scan) := by
  unfold State.tapScan
  (repeat' split) <;> first
    | exact s.tapAuth_grows scan
    | (refine State.grows_congr ?_ (seal_forEach (by intro q t; simp) _) (State.runHeld_grows _); simp; done)
    | (refine State.grows_of_seal ?_; simp; done)

/-! ## The commands -/

/-- The outcome changes no fuse but by growth. -/
def Ages (s : State) (o : Host.Outcome State Fault Refusal) : Prop := ∀ t, o = .next t → s.Grows t

theorem Keeps.ages {s : State} {o : Host.Outcome State Fault Refusal} (h : Keeps s o) : Ages s o := fun t ht => State.grows_of_seal (h t ht)

theorem Ages.done {s t : State} (h : s.Grows t) : Ages s (done t) := by
  intro u hu; cases hu; exact State.grows_congr rfl t.settle_seal h

theorem execLifecycle_ages (p : Path) (s : State) : Ages s (execLifecycle p s) := .done (s.authOp_grows p _)
theorem execRollfwd_ages (p : Path) (s : State) : Ages s (execRollfwd p s) := .done (s.authOp_grows p _)
theorem execUpdate_ages (p : Path) (s : State) : Ages s (execUpdate p s) := .done (s.authOp_grows p _)
theorem execRegisterWrite_ages (w : BitVec 6) (a : WrAcc) (s : State) : Ages s (execRegisterWrite w a s) := .done (s.access_grows _ a)
theorem execWreg_ages (f : SkFrame) (s : State) : Ages s (execWreg f s) := by
  exact .done (s.skArrive_grows _)
theorem execFrameReceive_ages (fr : EthFrame) (s : State) : Ages s (execFrameReceive fr s) := .done (s.receiveFrame_grows fr)

theorem execTapInstruction_ages (ir : Byte) (scan : TapScan) (s : State) : Ages s (execTapInstruction ir scan s) := by
  unfold execTapInstruction; dsimp only; split
  · exact .done (State.grows_of_seal rfl)
  split
  · intro t ht; cases ht
  · exact .done (State.grows_congr (by simp) rfl (State.tapScan_grows (s.modSec fun c => { c with tapIr := ir, bscan := tapTakesPins (s.tapActs ir) }) _ scan))

/-- RESTORE_STEP grows, or boots the part after firmware that is not good (R638). -/
theorem execRestoreStep_ages (s t : State) (h : execRestoreStep s = .next t) : s.Grows t ∨ t.fuses = s.fuses := by
  unfold execRestoreStep at h; dsimp only at h
  split at h
  · exact .inl (Ages.done (State.grows_of_seal rfl) t h)
  split at h
  · exact .inl (Ages.done (State.grows_of_seal rfl) t h)
  split at h
  · exact .inl (Ages.done (State.grows_of_seal (by simp)) t h)
  split at h
  · right; refine KeepsFuses.done ?_ t h; rw [State.brownoutBoot_fuses]; rfl
  · left; refine Ages.done (State.grows_congr ?_ rfl (State.restoreDomain_grows _ _)) t h
    rw [State.modPower_seal]; split <;> simp

end Sys2Proof.Machine
end

