-- ==== Sys2Proof/Laws/Tab.lean ====
section
/-! SUPPORT. The laws of the sparse tables: what a read gives after a write, that a write keeps the canonical form, and the same for runs of
bytes. -/

namespace Sys2Proof.Machine

variable {α : Type}

@[simp] theorem Tab.get_nil (d : α) (k : Nat) : Tab.get d [] k = d := rfl

theorem Tab.get_drop_same (d : α) (m : Tab α) (k : Nat) : Tab.get d (Tab.drop m k) k = d := by
  induction m with
  | nil => rfl
  | cons e m ih =>
    obtain ⟨k', v⟩ := e
    by_cases h : k' = k
    · simpa [Tab.drop, h] using ih
    · have h' : ¬ k = k' := fun e => h e.symm
      simpa [Tab.drop, h, Tab.get, h'] using ih

theorem Tab.get_drop_other (d : α) (m : Tab α) {k j : Nat} (hj : j ≠ k) : Tab.get d (Tab.drop m k) j = Tab.get d m j := by
  induction m with
  | nil => rfl
  | cons e m ih =>
    obtain ⟨k', v⟩ := e
    by_cases h : k' = k
    · subst h
      simpa [Tab.drop, Tab.get, hj] using ih
    · by_cases h2 : j = k' <;> simp_all [Tab.drop, Tab.get]

variable [DecidableEq α]

/-- A read of the index just written gives what was written. -/
@[simp] theorem Tab.get_set_same (d : α) (m : Tab α) (k : Nat) (v : α) : Tab.get d (Tab.set d m k v) k = v := by
  induction m with
  | nil => by_cases h : v = d <;> simp [Tab.set, Tab.get, h]
  | cons e m ih =>
    obtain ⟨k', v'⟩ := e
    simp only [Tab.set]
    by_cases h1 : k < k'
    · have h' : ¬ k = k' := by omega
      by_cases h2 : v = d <;> simp [h1, h2, Tab.get, h', Tab.get_drop_same]
    · by_cases h3 : k = k'
      · by_cases h2 : v = d <;> simp [h3, h2, Tab.get, Tab.get_drop_same]
      · simpa [h1, h3, Tab.get] using ih

/-- A write leaves every other index as it was. -/
theorem Tab.get_set_other (d : α) (m : Tab α) {k j : Nat} (v : α) (hj : j ≠ k) : Tab.get d (Tab.set d m k v) j = Tab.get d m j := by
  induction m with
  | nil => by_cases h : v = d <;> simp [Tab.set, Tab.get, h, hj]
  | cons e m ih =>
    obtain ⟨k', v'⟩ := e
    simp only [Tab.set]
    by_cases h1 : k < k'
    · by_cases h2 : v = d <;> by_cases h4 : j = k' <;> simp [h1, h2, h4, Tab.get, hj, Tab.get_drop_other]
      all_goals omega
    · by_cases h3 : k = k'
      · subst h3
        by_cases h2 : v = d <;> simp [h2, Tab.get, hj, Tab.get_drop_other]
      · simp only [h1, h3, if_false, Tab.get, ih]

theorem Tab.get_set (d : α) (m : Tab α) (k j : Nat) (v : α) : Tab.get d (Tab.set d m k v) j = if j = k then v else Tab.get d m j := by
  by_cases h : j = k
  · simp [h]
  · simp [h, Tab.get_set_other]

omit [DecidableEq α] in
theorem Tab.all_drop (m : Tab α) (k : Nat) {p : Nat × α → Bool} (h : m.all p = true) : (Tab.drop m k).all p = true := by
  simp only [List.all_eq_true, Tab.drop, List.mem_filter] at *
  exact fun x hx => h x hx.1

theorem Tab.wf_drop (d : α) (m : Tab α) (k : Nat) (h : Tab.wf d m = true) : Tab.wf d (Tab.drop m k) = true := by
  induction m with
  | nil => rfl
  | cons e m ih =>
    simp only [Tab.wf, Bool.and_eq_true] at h
    by_cases hk : e.1 = k
    · simpa [Tab.drop, hk] using ih h.2
    · have hc : Tab.drop (e :: m) k = e :: Tab.drop m k := by simp [Tab.drop, hk]
      rw [hc]
      simp only [Tab.wf, Bool.and_eq_true]
      exact ⟨⟨h.1.1, Tab.all_drop m k h.1.2⟩, ih h.2⟩

theorem Tab.all_set (d : α) (m : Tab α) (k b : Nat) (v : α) (hb : b < k) (h : m.all (fun e => decide (b < e.1)) = true) :
    (Tab.set d m k v).all (fun e => decide (b < e.1)) = true := by
  induction m with
  | nil => by_cases h2 : v = d <;> simp [Tab.set, h2, hb]
  | cons e m ih =>
    obtain ⟨k', v'⟩ := e
    simp only [List.all_cons, Bool.and_eq_true, decide_eq_true_eq] at h
    have hd := Tab.all_drop m k h.2
    simp only [Tab.set]
    split
    · split <;> simp only [List.all_cons, Bool.and_eq_true, decide_eq_true_eq]
      · exact ⟨h.1, hd⟩
      · exact ⟨hb, h.1, h.2⟩
    · split
      · split
        · exact hd
        · simp only [List.all_cons, Bool.and_eq_true, decide_eq_true_eq]; exact ⟨hb, h.2⟩
      · simp only [List.all_cons, Bool.and_eq_true, decide_eq_true_eq]; exact ⟨h.1, ih h.2⟩

/-- A write keeps the canonical form. -/
theorem Tab.wf_set (d : α) (m : Tab α) (k : Nat) (v : α) (h : Tab.wf d m = true) : Tab.wf d (Tab.set d m k v) = true := by
  induction m with
  | nil => by_cases h2 : v = d <;> simp [Tab.set, Tab.wf, h2]
  | cons e m ih =>
    obtain ⟨k', v'⟩ := e
    simp only [Tab.wf, Bool.and_eq_true, decide_eq_true_eq] at h
    obtain ⟨⟨hv, ha⟩, hm⟩ := h
    have hd := Tab.all_drop m k ha
    simp only [Tab.set]
    by_cases h1 : k < k'
    · by_cases h2 : v = d
      · simp only [h1, h2, if_true, Tab.wf, Bool.and_eq_true, decide_eq_true_eq]
        exact ⟨⟨hv, hd⟩, Tab.wf_drop d m k hm⟩
      · simp only [h1, h2, if_true, if_false, Tab.wf, Bool.and_eq_true, decide_eq_true_eq, List.all_cons]
        refine ⟨⟨by simpa using h2, by simpa using h1, ?_⟩, ⟨hv, ha⟩, hm⟩
        simp only [List.all_eq_true, decide_eq_true_eq] at *
        exact fun x hx => Nat.lt_trans h1 (ha x hx)
    · by_cases h3 : k = k'
      · by_cases h2 : v = d
        · simp [h3, h2, Tab.wf_drop d m k' hm]
        · simp only [h3, h2, Nat.lt_irrefl, if_false, if_true, Tab.wf, Bool.and_eq_true, decide_eq_true_eq]
          exact ⟨⟨h2, ha⟩, hm⟩
      · simp only [h1, h3, if_false, Tab.wf, Bool.and_eq_true, decide_eq_true_eq]
        exact ⟨⟨hv, Tab.all_set d m k k' v (by omega) ha⟩, ih hm⟩

omit [DecidableEq α] in
/-- Below its first index a table in canonical form reads as the default. -/
theorem Tab.get_below (d : α) (m : Tab α) (b : Nat) (h : m.all (fun e => decide (b < e.1)) = true) {k : Nat} (hk : k ≤ b) : Tab.get d m k = d := by
  induction m with
  | nil => rfl
  | cons e m ih =>
    simp only [List.all_cons, Bool.and_eq_true, decide_eq_true_eq] at h
    have : ¬ k = e.1 := by omega
    simp only [Tab.get, this, if_false]
    exact ih h.2

/-- Two tables in canonical form that read alike are equal: equal contents are equal data. -/
theorem Tab.ext_get (d : α) (m n : Tab α) (hm : Tab.wf d m = true) (hn : Tab.wf d n = true) (h : ∀ k, Tab.get d m k = Tab.get d n k) : m = n := by
  induction m generalizing n with
  | nil =>
    cases n with
    | nil => rfl
    | cons e n =>
      simp only [Tab.wf, Bool.and_eq_true, decide_eq_true_eq] at hn
      have := h e.1
      simp [Tab.get] at this
      exact absurd this.symm hn.1.1
  | cons e m ih =>
    obtain ⟨k, v⟩ := e
    simp only [Tab.wf, Bool.and_eq_true, decide_eq_true_eq] at hm
    cases n with
    | nil =>
      have := h k
      simp [Tab.get] at this
      exact absurd this hm.1.1
    | cons f n =>
      obtain ⟨k', v'⟩ := f
      simp only [Tab.wf, Bool.and_eq_true, decide_eq_true_eq] at hn
      have hk : k = k' := by
        rcases Nat.lt_trichotomy k k' with hlt | heq | hlt
        · have := h k
          have hne : ¬ k = k' := by omega
          simp only [Tab.get, if_true, hne, if_false, Tab.get_below d n k' hn.1.2 (k := k) (by omega)] at this
          exact absurd this hm.1.1
        · exact heq
        · have := h k'
          have hne : ¬ k' = k := by omega
          simp only [Tab.get, if_true, hne, if_false, Tab.get_below d m k hm.1.2 (k := k') (by omega)] at this
          exact absurd this.symm hn.1.1
      subst hk
      have hv : v = v' := by simpa [Tab.get] using h k
      subst hv
      rw [ih n hm.2 hn.2]
      intro j
      by_cases hj : j = k
      · subst hj; rw [Tab.get_below d m j hm.1.2 (Nat.le_refl _), Tab.get_below d n j hn.1.2 (Nat.le_refl _)]
      · simpa [Tab.get, hj] using h j

/-- Writing an index twice keeps the second value. -/
theorem Tab.set_set (d : α) (m : Tab α) (k : Nat) (v w : α) (h : Tab.wf d m = true) : Tab.set d (Tab.set d m k v) k w = Tab.set d m k w := by
  refine Tab.ext_get d _ _ (Tab.wf_set _ _ _ _ (Tab.wf_set _ _ _ _ h)) (Tab.wf_set _ _ _ _ h) fun j => ?_
  simp only [Tab.get_set]
  split <;> rfl

/-- Writing back what an index holds changes nothing. -/
theorem Tab.set_get_self (d : α) (m : Tab α) (k : Nat) (h : Tab.wf d m = true) : Tab.set d m k (Tab.get d m k) = m := by
  refine Tab.ext_get d _ _ (Tab.wf_set _ _ _ _ h) h fun j => ?_
  simp only [Tab.get_set]
  split <;> simp [*]

/-- A run of bytes written keeps the canonical form. -/
theorem Mem.wf_setBytes (d : Byte) (bs : List Byte) (m : Mem) (a : Nat) (h : Tab.wf d m = true) : Tab.wf d (Mem.setBytes d m a bs) = true := by
  induction bs generalizing m a with
  | nil => exact h
  | cons b bs ih => exact ih _ _ (Tab.wf_set d m a b h)

/-- A byte outside the run reads as before. -/
theorem Mem.get_setBytes_other (d : Byte) (bs : List Byte) (m : Mem) (a j : Nat) (h : j < a ∨ a + bs.length ≤ j) :
    Tab.get d (Mem.setBytes d m a bs) j = Tab.get d m j := by
  induction bs generalizing m a with
  | nil => rfl
  | cons b bs ih =>
    simp only [List.length_cons] at h
    rw [Mem.setBytes, ih _ _ (by omega), Tab.get_set_other _ _ _ (by omega)]

/-- A byte of the run reads as written. -/
theorem Mem.get_setBytes_in (d : Byte) (bs : List Byte) (m : Mem) (a i : Nat) (h : i < bs.length) :
    Tab.get d (Mem.setBytes d m a bs) (a + i) = bs[i]?.getD d := by
  induction bs generalizing m a i with
  | nil => simp at h
  | cons b bs ih =>
    cases i with
    | zero => rw [Mem.setBytes, Mem.get_setBytes_other _ _ _ _ _ (by omega)]; simp
    | succ i =>
      have := ih (Tab.set d m a b) (a + 1) i (by simpa using h)
      simpa [Mem.setBytes, Nat.add_assoc, Nat.add_comm 1 i] using this

@[simp] theorem Mem.length_getBytes (d : Byte) (m : Mem) (a n : Nat) : (Mem.getBytes d m a n).length = n := by simp [Mem.getBytes]

/-- The bytes just written read back. -/
theorem Mem.getBytes_setBytes (d : Byte) (bs : List Byte) (m : Mem) (a : Nat) : Mem.getBytes d (Mem.setBytes d m a bs) a bs.length = bs := by
  apply List.ext_getElem?
  intro i
  by_cases h : i < bs.length
  · simp only [Mem.getBytes, List.getElem?_map, List.getElem?_range h, Option.map_some]
    rw [Mem.get_setBytes_in _ _ _ _ _ h, List.getElem?_eq_getElem h]; rfl
  · simp [Mem.getBytes, Nat.le_of_not_lt h]

end Sys2Proof.Machine
end

