-- ==== Sys2Proof/Laws/State.lean ====
section
/-! SUPPORT. What each named update of the state does to each field and to each named reading: one law for each, so that no proof unfolds a
record update. -/

namespace Sys2Proof.Machine

/-! ## Updates of a part through its update of the whole -/

@[simp] theorem State.modEng_eq (s : State) (n : Nat) (f : Engine → Engine) : s.modEng n f = s.setEng n (f (s.eng n)) := rfl
@[simp] theorem State.modQueue_eq (s : State) (n : Nat) (f : Queue → Queue) : s.modQueue n f = s.setQueue n (f (s.queue n)) := rfl
@[simp] theorem State.modJob_eq (s : State) (n : Nat) (f : JobRec → JobRec) : s.modJob n f = s.setJob n (f (s.job n)) := rfl
@[simp] theorem State.modRun_eq (s : State) (n : Nat) (f : JobRun → JobRun) : s.modRun n f = s.setRun n (f (s.run n)) := rfl
@[simp] theorem State.modArea_eq (s : State) (n : Nat) (f : Area → Area) : s.modArea n f = s.setArea n (f (s.area n)) := rfl
@[simp] theorem State.modSlot_eq (s : State) (n : Nat) (f : Slot → Slot) : s.modSlot n f = s.setSlot n (f (s.slot n)) := rfl
@[simp] theorem State.modSlice_eq (s : State) (n : Nat) (f : Slice → Slice) : s.modSlice n f = s.setSlice n (f (s.slice n)) := rfl
@[simp] theorem State.modPort_eq (s : State) (n : Nat) (f : Port → Port) : s.modPort n f = s.setPort n (f (s.port n)) := rfl
@[simp] theorem State.modPeer_eq (s : State) (n : Nat) (f : Peer → Peer) : s.modPeer n f = s.setPeer n (f (s.peer n)) := rfl
@[simp] theorem State.modStream_eq (s : State) (n : Nat) (f : Stream → Stream) : s.modStream n f = s.setStream n (f (s.stream n)) := rfl
@[simp] theorem State.modTable_eq (s : State) (n : Nat) (f : Table → Table) : s.modTable n f = s.setTable n (f (s.table n)) := rfl
@[simp] theorem State.modWindow_eq (s : State) (e w : Nat) (f : Window → Window) : s.modWindow e w f = s.setWindow e w (f (s.window e w)) := rfl
@[simp] theorem State.modCtx_eq (s : State) (p : Path) (f : Ctx → Ctx) : s.modCtx p f = s.setCtx p (f (s.ctx p)) := rfl
@[simp] theorem State.bumpFree_eq (s : State) (g i c : Nat) : s.bumpFree g i c = (s.bump g i c s.free).used 1 := rfl

/-! ## Reading back what was written -/

@[simp] theorem State.eng_setEng_same (s : State) (n : Nat) (x : Engine) : (s.setEng n x).eng n = x := Tab.get_set_same _ _ _ _
theorem State.eng_setEng (s : State) (n m : Nat) (x : Engine) : (s.setEng n x).eng m = if m = n then x else s.eng m := Tab.get_set _ _ _ _ _
@[simp] theorem State.eng_setEng_other (s : State) (n m : Nat) (x : Engine) (h : m ≠ n) : (s.setEng n x).eng m = s.eng m := Tab.get_set_other _ _ _ h
@[simp] theorem State.queue_setQueue_same (s : State) (n : Nat) (x : Queue) : (s.setQueue n x).queue n = x := Tab.get_set_same _ _ _ _
theorem State.queue_setQueue (s : State) (n m : Nat) (x : Queue) : (s.setQueue n x).queue m = if m = n then x else s.queue m := Tab.get_set _ _ _ _ _
@[simp] theorem State.queue_setQueue_other (s : State) (n m : Nat) (x : Queue) (h : m ≠ n) : (s.setQueue n x).queue m = s.queue m := Tab.get_set_other _ _ _ h
@[simp] theorem State.job_setJob_same (s : State) (n : Nat) (x : JobRec) : (s.setJob n x).job n = x := Tab.get_set_same _ _ _ _
theorem State.job_setJob (s : State) (n m : Nat) (x : JobRec) : (s.setJob n x).job m = if m = n then x else s.job m := Tab.get_set _ _ _ _ _
@[simp] theorem State.job_setJob_other (s : State) (n m : Nat) (x : JobRec) (h : m ≠ n) : (s.setJob n x).job m = s.job m := Tab.get_set_other _ _ _ h
@[simp] theorem State.run_setRun_same (s : State) (n : Nat) (x : JobRun) : (s.setRun n x).run n = x := Tab.get_set_same _ _ _ _
theorem State.run_setRun (s : State) (n m : Nat) (x : JobRun) : (s.setRun n x).run m = if m = n then x else s.run m := Tab.get_set _ _ _ _ _
@[simp] theorem State.run_setRun_other (s : State) (n m : Nat) (x : JobRun) (h : m ≠ n) : (s.setRun n x).run m = s.run m := Tab.get_set_other _ _ _ h
@[simp] theorem State.area_setArea_same (s : State) (n : Nat) (x : Area) : (s.setArea n x).area n = x := Tab.get_set_same _ _ _ _
theorem State.area_setArea (s : State) (n m : Nat) (x : Area) : (s.setArea n x).area m = if m = n then x else s.area m := Tab.get_set _ _ _ _ _
@[simp] theorem State.area_setArea_other (s : State) (n m : Nat) (x : Area) (h : m ≠ n) : (s.setArea n x).area m = s.area m := Tab.get_set_other _ _ _ h
@[simp] theorem State.slot_setSlot_same (s : State) (n : Nat) (x : Slot) : (s.setSlot n x).slot n = x := Tab.get_set_same _ _ _ _
theorem State.slot_setSlot (s : State) (n m : Nat) (x : Slot) : (s.setSlot n x).slot m = if m = n then x else s.slot m := Tab.get_set _ _ _ _ _
@[simp] theorem State.slot_setSlot_other (s : State) (n m : Nat) (x : Slot) (h : m ≠ n) : (s.setSlot n x).slot m = s.slot m := Tab.get_set_other _ _ _ h
@[simp] theorem State.slice_setSlice_same (s : State) (n : Nat) (x : Slice) : (s.setSlice n x).slice n = x := Tab.get_set_same _ _ _ _
theorem State.slice_setSlice (s : State) (n m : Nat) (x : Slice) : (s.setSlice n x).slice m = if m = n then x else s.slice m := Tab.get_set _ _ _ _ _
@[simp] theorem State.slice_setSlice_other (s : State) (n m : Nat) (x : Slice) (h : m ≠ n) : (s.setSlice n x).slice m = s.slice m := Tab.get_set_other _ _ _ h
@[simp] theorem State.port_setPort_same (s : State) (n : Nat) (x : Port) : (s.setPort n x).port n = x := Tab.get_set_same _ _ _ _
theorem State.port_setPort (s : State) (n m : Nat) (x : Port) : (s.setPort n x).port m = if m = n then x else s.port m := Tab.get_set _ _ _ _ _
@[simp] theorem State.port_setPort_other (s : State) (n m : Nat) (x : Port) (h : m ≠ n) : (s.setPort n x).port m = s.port m := Tab.get_set_other _ _ _ h
@[simp] theorem State.peer_setPeer_same (s : State) (n : Nat) (x : Peer) : (s.setPeer n x).peer n = x := Tab.get_set_same _ _ _ _
theorem State.peer_setPeer (s : State) (n m : Nat) (x : Peer) : (s.setPeer n x).peer m = if m = n then x else s.peer m := Tab.get_set _ _ _ _ _
@[simp] theorem State.peer_setPeer_other (s : State) (n m : Nat) (x : Peer) (h : m ≠ n) : (s.setPeer n x).peer m = s.peer m := Tab.get_set_other _ _ _ h
@[simp] theorem State.rx_setRx_same (s : State) (n : Nat) (x : SendRx) : (s.setRx n x).rx n = x := Tab.get_set_same _ _ _ _
theorem State.rx_setRx (s : State) (n m : Nat) (x : SendRx) : (s.setRx n x).rx m = if m = n then x else s.rx m := Tab.get_set _ _ _ _ _
@[simp] theorem State.rx_setRx_other (s : State) (n m : Nat) (x : SendRx) (h : m ≠ n) : (s.setRx n x).rx m = s.rx m := Tab.get_set_other _ _ _ h
@[simp] theorem State.stx_setStx_same (s : State) (n : Nat) (x : SendTx) : (s.setStx n x).stx n = x := Tab.get_set_same _ _ _ _
theorem State.stx_setStx (s : State) (n m : Nat) (x : SendTx) : (s.setStx n x).stx m = if m = n then x else s.stx m := Tab.get_set _ _ _ _ _
@[simp] theorem State.stx_setStx_other (s : State) (n m : Nat) (x : SendTx) (h : m ≠ n) : (s.setStx n x).stx m = s.stx m := Tab.get_set_other _ _ _ h
@[simp] theorem State.stream_setStream_same (s : State) (n : Nat) (x : Stream) : (s.setStream n x).stream n = x := Tab.get_set_same _ _ _ _
theorem State.stream_setStream (s : State) (n m : Nat) (x : Stream) : (s.setStream n x).stream m = if m = n then x else s.stream m := Tab.get_set _ _ _ _ _
@[simp] theorem State.stream_setStream_other (s : State) (n m : Nat) (x : Stream) (h : m ≠ n) : (s.setStream n x).stream m = s.stream m := Tab.get_set_other _ _ _ h
@[simp] theorem State.table_setTable_same (s : State) (n : Nat) (x : Table) : (s.setTable n x).table n = x := Tab.get_set_same _ _ _ _
theorem State.table_setTable (s : State) (n m : Nat) (x : Table) : (s.setTable n x).table m = if m = n then x else s.table m := Tab.get_set _ _ _ _ _
@[simp] theorem State.table_setTable_other (s : State) (n m : Nat) (x : Table) (h : m ≠ n) : (s.setTable n x).table m = s.table m := Tab.get_set_other _ _ _ h
@[simp] theorem State.cell_setCell_same (s : State) (n : Nat) (x : Option Deposit) : (s.setCell n x).cell n = x := Tab.get_set_same _ _ _ _
theorem State.cell_setCell (s : State) (n m : Nat) (x : Option Deposit) : (s.setCell n x).cell m = if m = n then x else s.cell m := Tab.get_set _ _ _ _ _
@[simp] theorem State.cell_setCell_other (s : State) (n m : Nat) (x : Option Deposit) (h : m ≠ n) : (s.setCell n x).cell m = s.cell m := Tab.get_set_other _ _ _ h
@[simp] theorem State.window_setWindow_same (s : State) (e w : Nat) (x : Window) : (s.setWindow e w x).window e w = x := Tab.get_set_same _ _ _ _
theorem State.window_setWindow_other (s : State) (e w e' w' : Nat) (x : Window) (h : 8 * e' + w' ≠ 8 * e + w) :
    (s.setWindow e w x).window e' w' = s.window e' w' := Tab.get_set_other _ _ _ h
@[simp] theorem State.cbSlot_setCbSlot_same (s : State) (t i : Nat) (x : CbSlot) : (s.setCbSlot t i x).cbSlot t i = x := Tab.get_set_same _ _ _ _
theorem State.cbSlot_setCbSlot_other (s : State) (t i t' i' : Nat) (x : CbSlot) (h : 2 * t' + i' ≠ 2 * t + i) :
    (s.setCbSlot t i x).cbSlot t' i' = s.cbSlot t' i' := Tab.get_set_other _ _ _ h
theorem pathCtx_inj (p q : Path) (h : pathCtx p = pathCtx q) : p = q := by
  cases p <;> cases q <;> simp_all [pathCtx] <;> omega
@[simp] theorem State.ctx_setCtx_same (s : State) (p : Path) (x : Ctx) : (s.setCtx p x).ctx p = x := Tab.get_set_same _ _ _ _
theorem State.ctx_setCtx_other (s : State) (p q : Path) (x : Ctx) (h : q ≠ p) : (s.setCtx p x).ctx q = s.ctx q :=
  Tab.get_set_other _ _ _ fun e => h (pathCtx_inj _ _ e)
theorem State.byte_write_in (s : State) (a i : Nat) (bs : List Byte) (h : i < bs.length) : (s.write a bs).byte (a + i) = bs[i]?.getD 0 :=
  Mem.get_setBytes_in _ _ _ _ _ h
theorem State.byte_write_other (s : State) (a j : Nat) (bs : List Byte) (h : j < a ∨ a + bs.length ≤ j) : (s.write a bs).byte j = s.byte j :=
  Mem.get_setBytes_other _ _ _ _ _ h
theorem State.bytes_write (s : State) (a : Nat) (bs : List Byte) : (s.write a bs).bytes a bs.length = bs := Mem.getBytes_setBytes _ _ _ _
/-- Every write to DRAM keeps its canonical form. -/
theorem State.wf_write (s : State) (a : Nat) (bs : List Byte) (h : Tab.wf (0 : Byte) s.dram = true) : Tab.wf (0 : Byte) (s.write a bs).dram = true :=
  Mem.wf_setBytes _ _ _ _ h
theorem State.ctr_bump_same (s : State) (g i c n : Nat) : (s.bump g i c n).ctr g i c = s.ctr g i c + BitVec.ofNat 40 n := Tab.get_set_same _ _ _ _


/-! ## setEng -/

section
variable (s : State) (n : Nat) (x : Engine)
@[simp] theorem State.setEng_engines : (s.setEng n x).engines = Tab.set {} s.engines n x := rfl
@[simp] theorem State.setEng_pending : (s.setEng n x).pending = s.pending := rfl
@[simp] theorem State.setEng_fresh : (s.setEng n x).fresh = s.fresh := rfl
@[simp] theorem State.setEng_dev : (s.setEng n x).dev = s.dev := rfl
@[simp] theorem State.setEng_ctxs : (s.setEng n x).ctxs = s.ctxs := rfl
@[simp] theorem State.setEng_queues : (s.setEng n x).queues = s.queues := rfl
@[simp] theorem State.setEng_ledger : (s.setEng n x).ledger = s.ledger := rfl
@[simp] theorem State.setEng_mirror : (s.setEng n x).mirror = s.mirror := rfl
@[simp] theorem State.setEng_badP : (s.setEng n x).badP = s.badP := rfl
@[simp] theorem State.setEng_badM : (s.setEng n x).badM = s.badM := rfl
@[simp] theorem State.setEng_jobs : (s.setEng n x).jobs = s.jobs := rfl
@[simp] theorem State.setEng_runs : (s.setEng n x).runs = s.runs := rfl
@[simp] theorem State.setEng_areas : (s.setEng n x).areas = s.areas := rfl
@[simp] theorem State.setEng_cells : (s.setEng n x).cells = s.cells := rfl
@[simp] theorem State.setEng_admitting : (s.setEng n x).admitting = s.admitting := rfl
@[simp] theorem State.setEng_slots : (s.setEng n x).slots = s.slots := rfl
@[simp] theorem State.setEng_slotSeq : (s.setEng n x).slotSeq = s.slotSeq := rfl
@[simp] theorem State.setEng_passSeq : (s.setEng n x).passSeq = s.passSeq := rfl
@[simp] theorem State.setEng_windows : (s.setEng n x).windows = s.windows := rfl
@[simp] theorem State.setEng_slices : (s.setEng n x).slices = s.slices := rfl
@[simp] theorem State.setEng_books : (s.setEng n x).books = s.books := rfl
@[simp] theorem State.setEng_dram : (s.setEng n x).dram = s.dram := rfl
@[simp] theorem State.setEng_ports : (s.setEng n x).ports = s.ports := rfl
@[simp] theorem State.setEng_peers : (s.setEng n x).peers = s.peers := rfl
@[simp] theorem State.setEng_sendRx : (s.setEng n x).sendRx = s.sendRx := rfl
@[simp] theorem State.setEng_sendTx : (s.setEng n x).sendTx = s.sendTx := rfl
@[simp] theorem State.setEng_streams : (s.setEng n x).streams = s.streams := rfl
@[simp] theorem State.setEng_market : (s.setEng n x).market = s.market := rfl
@[simp] theorem State.setEng_tx : (s.setEng n x).tx = s.tx := rfl
@[simp] theorem State.setEng_bell : (s.setEng n x).bell = s.bell := rfl
@[simp] theorem State.setEng_book : (s.setEng n x).book = s.book := rfl
@[simp] theorem State.setEng_pins : (s.setEng n x).pins = s.pins := rfl
@[simp] theorem State.setEng_power : (s.setEng n x).power = s.power := rfl
@[simp] theorem State.setEng_watch : (s.setEng n x).watch = s.watch := rfl
@[simp] theorem State.setEng_sec : (s.setEng n x).sec = s.sec := rfl
@[simp] theorem State.setEng_tables : (s.setEng n x).tables = s.tables := rfl
@[simp] theorem State.setEng_ctrs : (s.setEng n x).ctrs = s.ctrs := rfl
@[simp] theorem State.queue_setEng (k : Nat) : (s.setEng n x).queue k = s.queue k := rfl
@[simp] theorem State.job_setEng (k : Nat) : (s.setEng n x).job k = s.job k := rfl
@[simp] theorem State.run_setEng (k : Nat) : (s.setEng n x).run k = s.run k := rfl
@[simp] theorem State.area_setEng (k : Nat) : (s.setEng n x).area k = s.area k := rfl
@[simp] theorem State.slot_setEng (k : Nat) : (s.setEng n x).slot k = s.slot k := rfl
@[simp] theorem State.slice_setEng (k : Nat) : (s.setEng n x).slice k = s.slice k := rfl
@[simp] theorem State.port_setEng (k : Nat) : (s.setEng n x).port k = s.port k := rfl
@[simp] theorem State.peer_setEng (k : Nat) : (s.setEng n x).peer k = s.peer k := rfl
@[simp] theorem State.rx_setEng (k : Nat) : (s.setEng n x).rx k = s.rx k := rfl
@[simp] theorem State.stx_setEng (k : Nat) : (s.setEng n x).stx k = s.stx k := rfl
@[simp] theorem State.stream_setEng (k : Nat) : (s.setEng n x).stream k = s.stream k := rfl
@[simp] theorem State.table_setEng (k : Nat) : (s.setEng n x).table k = s.table k := rfl
@[simp] theorem State.cell_setEng (k : Nat) : (s.setEng n x).cell k = s.cell k := rfl
@[simp] theorem State.window_setEng (j k : Nat) : (s.setEng n x).window j k = s.window j k := rfl
@[simp] theorem State.cbSlot_setEng (j k : Nat) : (s.setEng n x).cbSlot j k = s.cbSlot j k := rfl
@[simp] theorem State.ctx_setEng (q : Path) : (s.setEng n x).ctx q = s.ctx q := rfl
@[simp] theorem State.byte_setEng (k : Nat) : (s.setEng n x).byte k = s.byte k := rfl
@[simp] theorem State.bytes_setEng (j k : Nat) : (s.setEng n x).bytes j k = s.bytes j k := rfl
@[simp] theorem State.ctr_setEng (j k l : Nat) : (s.setEng n x).ctr j k l = s.ctr j k l := rfl
@[simp] theorem State.entry_setEng (k : Nat) : (s.setEng n x).entry k = s.entry k := rfl
end

/-! ## setQueue -/

section
variable (s : State) (n : Nat) (x : Queue)
@[simp] theorem State.setQueue_queues : (s.setQueue n x).queues = Tab.set {} s.queues n x := rfl
@[simp] theorem State.setQueue_pending : (s.setQueue n x).pending = s.pending := rfl
@[simp] theorem State.setQueue_fresh : (s.setQueue n x).fresh = s.fresh := rfl
@[simp] theorem State.setQueue_dev : (s.setQueue n x).dev = s.dev := rfl
@[simp] theorem State.setQueue_ctxs : (s.setQueue n x).ctxs = s.ctxs := rfl
@[simp] theorem State.setQueue_ledger : (s.setQueue n x).ledger = s.ledger := rfl
@[simp] theorem State.setQueue_mirror : (s.setQueue n x).mirror = s.mirror := rfl
@[simp] theorem State.setQueue_badP : (s.setQueue n x).badP = s.badP := rfl
@[simp] theorem State.setQueue_badM : (s.setQueue n x).badM = s.badM := rfl
@[simp] theorem State.setQueue_jobs : (s.setQueue n x).jobs = s.jobs := rfl
@[simp] theorem State.setQueue_runs : (s.setQueue n x).runs = s.runs := rfl
@[simp] theorem State.setQueue_areas : (s.setQueue n x).areas = s.areas := rfl
@[simp] theorem State.setQueue_cells : (s.setQueue n x).cells = s.cells := rfl
@[simp] theorem State.setQueue_admitting : (s.setQueue n x).admitting = s.admitting := rfl
@[simp] theorem State.setQueue_slots : (s.setQueue n x).slots = s.slots := rfl
@[simp] theorem State.setQueue_slotSeq : (s.setQueue n x).slotSeq = s.slotSeq := rfl
@[simp] theorem State.setQueue_passSeq : (s.setQueue n x).passSeq = s.passSeq := rfl
@[simp] theorem State.setQueue_engines : (s.setQueue n x).engines = s.engines := rfl
@[simp] theorem State.setQueue_windows : (s.setQueue n x).windows = s.windows := rfl
@[simp] theorem State.setQueue_slices : (s.setQueue n x).slices = s.slices := rfl
@[simp] theorem State.setQueue_books : (s.setQueue n x).books = s.books := rfl
@[simp] theorem State.setQueue_dram : (s.setQueue n x).dram = s.dram := rfl
@[simp] theorem State.setQueue_ports : (s.setQueue n x).ports = s.ports := rfl
@[simp] theorem State.setQueue_peers : (s.setQueue n x).peers = s.peers := rfl
@[simp] theorem State.setQueue_sendRx : (s.setQueue n x).sendRx = s.sendRx := rfl
@[simp] theorem State.setQueue_sendTx : (s.setQueue n x).sendTx = s.sendTx := rfl
@[simp] theorem State.setQueue_streams : (s.setQueue n x).streams = s.streams := rfl
@[simp] theorem State.setQueue_market : (s.setQueue n x).market = s.market := rfl
@[simp] theorem State.setQueue_tx : (s.setQueue n x).tx = s.tx := rfl
@[simp] theorem State.setQueue_bell : (s.setQueue n x).bell = s.bell := rfl
@[simp] theorem State.setQueue_book : (s.setQueue n x).book = s.book := rfl
@[simp] theorem State.setQueue_pins : (s.setQueue n x).pins = s.pins := rfl
@[simp] theorem State.setQueue_power : (s.setQueue n x).power = s.power := rfl
@[simp] theorem State.setQueue_watch : (s.setQueue n x).watch = s.watch := rfl
@[simp] theorem State.setQueue_sec : (s.setQueue n x).sec = s.sec := rfl
@[simp] theorem State.setQueue_tables : (s.setQueue n x).tables = s.tables := rfl
@[simp] theorem State.setQueue_ctrs : (s.setQueue n x).ctrs = s.ctrs := rfl
@[simp] theorem State.eng_setQueue (k : Nat) : (s.setQueue n x).eng k = s.eng k := rfl
@[simp] theorem State.job_setQueue (k : Nat) : (s.setQueue n x).job k = s.job k := rfl
@[simp] theorem State.run_setQueue (k : Nat) : (s.setQueue n x).run k = s.run k := rfl
@[simp] theorem State.area_setQueue (k : Nat) : (s.setQueue n x).area k = s.area k := rfl
@[simp] theorem State.slot_setQueue (k : Nat) : (s.setQueue n x).slot k = s.slot k := rfl
@[simp] theorem State.slice_setQueue (k : Nat) : (s.setQueue n x).slice k = s.slice k := rfl
@[simp] theorem State.port_setQueue (k : Nat) : (s.setQueue n x).port k = s.port k := rfl
@[simp] theorem State.peer_setQueue (k : Nat) : (s.setQueue n x).peer k = s.peer k := rfl
@[simp] theorem State.rx_setQueue (k : Nat) : (s.setQueue n x).rx k = s.rx k := rfl
@[simp] theorem State.stx_setQueue (k : Nat) : (s.setQueue n x).stx k = s.stx k := rfl
@[simp] theorem State.stream_setQueue (k : Nat) : (s.setQueue n x).stream k = s.stream k := rfl
@[simp] theorem State.table_setQueue (k : Nat) : (s.setQueue n x).table k = s.table k := rfl
@[simp] theorem State.cell_setQueue (k : Nat) : (s.setQueue n x).cell k = s.cell k := rfl
@[simp] theorem State.window_setQueue (j k : Nat) : (s.setQueue n x).window j k = s.window j k := rfl
@[simp] theorem State.cbSlot_setQueue (j k : Nat) : (s.setQueue n x).cbSlot j k = s.cbSlot j k := rfl
@[simp] theorem State.ctx_setQueue (q : Path) : (s.setQueue n x).ctx q = s.ctx q := rfl
@[simp] theorem State.byte_setQueue (k : Nat) : (s.setQueue n x).byte k = s.byte k := rfl
@[simp] theorem State.bytes_setQueue (j k : Nat) : (s.setQueue n x).bytes j k = s.bytes j k := rfl
@[simp] theorem State.ctr_setQueue (j k l : Nat) : (s.setQueue n x).ctr j k l = s.ctr j k l := rfl
@[simp] theorem State.entry_setQueue (k : Nat) : (s.setQueue n x).entry k = s.entry k := rfl
end

/-! ## setJob -/

section
variable (s : State) (n : Nat) (x : JobRec)
@[simp] theorem State.setJob_jobs : (s.setJob n x).jobs = Tab.set {} s.jobs n x := rfl
@[simp] theorem State.setJob_pending : (s.setJob n x).pending = s.pending := rfl
@[simp] theorem State.setJob_fresh : (s.setJob n x).fresh = s.fresh := rfl
@[simp] theorem State.setJob_dev : (s.setJob n x).dev = s.dev := rfl
@[simp] theorem State.setJob_ctxs : (s.setJob n x).ctxs = s.ctxs := rfl
@[simp] theorem State.setJob_queues : (s.setJob n x).queues = s.queues := rfl
@[simp] theorem State.setJob_ledger : (s.setJob n x).ledger = s.ledger := rfl
@[simp] theorem State.setJob_mirror : (s.setJob n x).mirror = s.mirror := rfl
@[simp] theorem State.setJob_badP : (s.setJob n x).badP = s.badP := rfl
@[simp] theorem State.setJob_badM : (s.setJob n x).badM = s.badM := rfl
@[simp] theorem State.setJob_runs : (s.setJob n x).runs = s.runs := rfl
@[simp] theorem State.setJob_areas : (s.setJob n x).areas = s.areas := rfl
@[simp] theorem State.setJob_cells : (s.setJob n x).cells = s.cells := rfl
@[simp] theorem State.setJob_admitting : (s.setJob n x).admitting = s.admitting := rfl
@[simp] theorem State.setJob_slots : (s.setJob n x).slots = s.slots := rfl
@[simp] theorem State.setJob_slotSeq : (s.setJob n x).slotSeq = s.slotSeq := rfl
@[simp] theorem State.setJob_passSeq : (s.setJob n x).passSeq = s.passSeq := rfl
@[simp] theorem State.setJob_engines : (s.setJob n x).engines = s.engines := rfl
@[simp] theorem State.setJob_windows : (s.setJob n x).windows = s.windows := rfl
@[simp] theorem State.setJob_slices : (s.setJob n x).slices = s.slices := rfl
@[simp] theorem State.setJob_books : (s.setJob n x).books = s.books := rfl
@[simp] theorem State.setJob_dram : (s.setJob n x).dram = s.dram := rfl
@[simp] theorem State.setJob_ports : (s.setJob n x).ports = s.ports := rfl
@[simp] theorem State.setJob_peers : (s.setJob n x).peers = s.peers := rfl
@[simp] theorem State.setJob_sendRx : (s.setJob n x).sendRx = s.sendRx := rfl
@[simp] theorem State.setJob_sendTx : (s.setJob n x).sendTx = s.sendTx := rfl
@[simp] theorem State.setJob_streams : (s.setJob n x).streams = s.streams := rfl
@[simp] theorem State.setJob_market : (s.setJob n x).market = s.market := rfl
@[simp] theorem State.setJob_tx : (s.setJob n x).tx = s.tx := rfl
@[simp] theorem State.setJob_bell : (s.setJob n x).bell = s.bell := rfl
@[simp] theorem State.setJob_book : (s.setJob n x).book = s.book := rfl
@[simp] theorem State.setJob_pins : (s.setJob n x).pins = s.pins := rfl
@[simp] theorem State.setJob_power : (s.setJob n x).power = s.power := rfl
@[simp] theorem State.setJob_watch : (s.setJob n x).watch = s.watch := rfl
@[simp] theorem State.setJob_sec : (s.setJob n x).sec = s.sec := rfl
@[simp] theorem State.setJob_tables : (s.setJob n x).tables = s.tables := rfl
@[simp] theorem State.setJob_ctrs : (s.setJob n x).ctrs = s.ctrs := rfl
@[simp] theorem State.eng_setJob (k : Nat) : (s.setJob n x).eng k = s.eng k := rfl
@[simp] theorem State.queue_setJob (k : Nat) : (s.setJob n x).queue k = s.queue k := rfl
@[simp] theorem State.run_setJob (k : Nat) : (s.setJob n x).run k = s.run k := rfl
@[simp] theorem State.area_setJob (k : Nat) : (s.setJob n x).area k = s.area k := rfl
@[simp] theorem State.slot_setJob (k : Nat) : (s.setJob n x).slot k = s.slot k := rfl
@[simp] theorem State.slice_setJob (k : Nat) : (s.setJob n x).slice k = s.slice k := rfl
@[simp] theorem State.port_setJob (k : Nat) : (s.setJob n x).port k = s.port k := rfl
@[simp] theorem State.peer_setJob (k : Nat) : (s.setJob n x).peer k = s.peer k := rfl
@[simp] theorem State.rx_setJob (k : Nat) : (s.setJob n x).rx k = s.rx k := rfl
@[simp] theorem State.stx_setJob (k : Nat) : (s.setJob n x).stx k = s.stx k := rfl
@[simp] theorem State.stream_setJob (k : Nat) : (s.setJob n x).stream k = s.stream k := rfl
@[simp] theorem State.table_setJob (k : Nat) : (s.setJob n x).table k = s.table k := rfl
@[simp] theorem State.cell_setJob (k : Nat) : (s.setJob n x).cell k = s.cell k := rfl
@[simp] theorem State.window_setJob (j k : Nat) : (s.setJob n x).window j k = s.window j k := rfl
@[simp] theorem State.cbSlot_setJob (j k : Nat) : (s.setJob n x).cbSlot j k = s.cbSlot j k := rfl
@[simp] theorem State.ctx_setJob (q : Path) : (s.setJob n x).ctx q = s.ctx q := rfl
@[simp] theorem State.byte_setJob (k : Nat) : (s.setJob n x).byte k = s.byte k := rfl
@[simp] theorem State.bytes_setJob (j k : Nat) : (s.setJob n x).bytes j k = s.bytes j k := rfl
@[simp] theorem State.ctr_setJob (j k l : Nat) : (s.setJob n x).ctr j k l = s.ctr j k l := rfl
@[simp] theorem State.entry_setJob (k : Nat) : (s.setJob n x).entry k = s.entry k := rfl
end

/-! ## setRun -/

section
variable (s : State) (n : Nat) (x : JobRun)
@[simp] theorem State.setRun_runs : (s.setRun n x).runs = Tab.set {} s.runs n x := rfl
@[simp] theorem State.setRun_pending : (s.setRun n x).pending = s.pending := rfl
@[simp] theorem State.setRun_fresh : (s.setRun n x).fresh = s.fresh := rfl
@[simp] theorem State.setRun_dev : (s.setRun n x).dev = s.dev := rfl
@[simp] theorem State.setRun_ctxs : (s.setRun n x).ctxs = s.ctxs := rfl
@[simp] theorem State.setRun_queues : (s.setRun n x).queues = s.queues := rfl
@[simp] theorem State.setRun_ledger : (s.setRun n x).ledger = s.ledger := rfl
@[simp] theorem State.setRun_mirror : (s.setRun n x).mirror = s.mirror := rfl
@[simp] theorem State.setRun_badP : (s.setRun n x).badP = s.badP := rfl
@[simp] theorem State.setRun_badM : (s.setRun n x).badM = s.badM := rfl
@[simp] theorem State.setRun_jobs : (s.setRun n x).jobs = s.jobs := rfl
@[simp] theorem State.setRun_areas : (s.setRun n x).areas = s.areas := rfl
@[simp] theorem State.setRun_cells : (s.setRun n x).cells = s.cells := rfl
@[simp] theorem State.setRun_admitting : (s.setRun n x).admitting = s.admitting := rfl
@[simp] theorem State.setRun_slots : (s.setRun n x).slots = s.slots := rfl
@[simp] theorem State.setRun_slotSeq : (s.setRun n x).slotSeq = s.slotSeq := rfl
@[simp] theorem State.setRun_passSeq : (s.setRun n x).passSeq = s.passSeq := rfl
@[simp] theorem State.setRun_engines : (s.setRun n x).engines = s.engines := rfl
@[simp] theorem State.setRun_windows : (s.setRun n x).windows = s.windows := rfl
@[simp] theorem State.setRun_slices : (s.setRun n x).slices = s.slices := rfl
@[simp] theorem State.setRun_books : (s.setRun n x).books = s.books := rfl
@[simp] theorem State.setRun_dram : (s.setRun n x).dram = s.dram := rfl
@[simp] theorem State.setRun_ports : (s.setRun n x).ports = s.ports := rfl
@[simp] theorem State.setRun_peers : (s.setRun n x).peers = s.peers := rfl
@[simp] theorem State.setRun_sendRx : (s.setRun n x).sendRx = s.sendRx := rfl
@[simp] theorem State.setRun_sendTx : (s.setRun n x).sendTx = s.sendTx := rfl
@[simp] theorem State.setRun_streams : (s.setRun n x).streams = s.streams := rfl
@[simp] theorem State.setRun_market : (s.setRun n x).market = s.market := rfl
@[simp] theorem State.setRun_tx : (s.setRun n x).tx = s.tx := rfl
@[simp] theorem State.setRun_bell : (s.setRun n x).bell = s.bell := rfl
@[simp] theorem State.setRun_book : (s.setRun n x).book = s.book := rfl
@[simp] theorem State.setRun_pins : (s.setRun n x).pins = s.pins := rfl
@[simp] theorem State.setRun_power : (s.setRun n x).power = s.power := rfl
@[simp] theorem State.setRun_watch : (s.setRun n x).watch = s.watch := rfl
@[simp] theorem State.setRun_sec : (s.setRun n x).sec = s.sec := rfl
@[simp] theorem State.setRun_tables : (s.setRun n x).tables = s.tables := rfl
@[simp] theorem State.setRun_ctrs : (s.setRun n x).ctrs = s.ctrs := rfl
@[simp] theorem State.eng_setRun (k : Nat) : (s.setRun n x).eng k = s.eng k := rfl
@[simp] theorem State.queue_setRun (k : Nat) : (s.setRun n x).queue k = s.queue k := rfl
@[simp] theorem State.job_setRun (k : Nat) : (s.setRun n x).job k = s.job k := rfl
@[simp] theorem State.area_setRun (k : Nat) : (s.setRun n x).area k = s.area k := rfl
@[simp] theorem State.slot_setRun (k : Nat) : (s.setRun n x).slot k = s.slot k := rfl
@[simp] theorem State.slice_setRun (k : Nat) : (s.setRun n x).slice k = s.slice k := rfl
@[simp] theorem State.port_setRun (k : Nat) : (s.setRun n x).port k = s.port k := rfl
@[simp] theorem State.peer_setRun (k : Nat) : (s.setRun n x).peer k = s.peer k := rfl
@[simp] theorem State.rx_setRun (k : Nat) : (s.setRun n x).rx k = s.rx k := rfl
@[simp] theorem State.stx_setRun (k : Nat) : (s.setRun n x).stx k = s.stx k := rfl
@[simp] theorem State.stream_setRun (k : Nat) : (s.setRun n x).stream k = s.stream k := rfl
@[simp] theorem State.table_setRun (k : Nat) : (s.setRun n x).table k = s.table k := rfl
@[simp] theorem State.cell_setRun (k : Nat) : (s.setRun n x).cell k = s.cell k := rfl
@[simp] theorem State.window_setRun (j k : Nat) : (s.setRun n x).window j k = s.window j k := rfl
@[simp] theorem State.cbSlot_setRun (j k : Nat) : (s.setRun n x).cbSlot j k = s.cbSlot j k := rfl
@[simp] theorem State.ctx_setRun (q : Path) : (s.setRun n x).ctx q = s.ctx q := rfl
@[simp] theorem State.byte_setRun (k : Nat) : (s.setRun n x).byte k = s.byte k := rfl
@[simp] theorem State.bytes_setRun (j k : Nat) : (s.setRun n x).bytes j k = s.bytes j k := rfl
@[simp] theorem State.ctr_setRun (j k l : Nat) : (s.setRun n x).ctr j k l = s.ctr j k l := rfl
@[simp] theorem State.entry_setRun (k : Nat) : (s.setRun n x).entry k = s.entry k := rfl
end

/-! ## setArea -/

section
variable (s : State) (n : Nat) (x : Area)
@[simp] theorem State.setArea_areas : (s.setArea n x).areas = Tab.set {} s.areas n x := rfl
@[simp] theorem State.setArea_pending : (s.setArea n x).pending = s.pending := rfl
@[simp] theorem State.setArea_fresh : (s.setArea n x).fresh = s.fresh := rfl
@[simp] theorem State.setArea_dev : (s.setArea n x).dev = s.dev := rfl
@[simp] theorem State.setArea_ctxs : (s.setArea n x).ctxs = s.ctxs := rfl
@[simp] theorem State.setArea_queues : (s.setArea n x).queues = s.queues := rfl
@[simp] theorem State.setArea_ledger : (s.setArea n x).ledger = s.ledger := rfl
@[simp] theorem State.setArea_mirror : (s.setArea n x).mirror = s.mirror := rfl
@[simp] theorem State.setArea_badP : (s.setArea n x).badP = s.badP := rfl
@[simp] theorem State.setArea_badM : (s.setArea n x).badM = s.badM := rfl
@[simp] theorem State.setArea_jobs : (s.setArea n x).jobs = s.jobs := rfl
@[simp] theorem State.setArea_runs : (s.setArea n x).runs = s.runs := rfl
@[simp] theorem State.setArea_cells : (s.setArea n x).cells = s.cells := rfl
@[simp] theorem State.setArea_admitting : (s.setArea n x).admitting = s.admitting := rfl
@[simp] theorem State.setArea_slots : (s.setArea n x).slots = s.slots := rfl
@[simp] theorem State.setArea_slotSeq : (s.setArea n x).slotSeq = s.slotSeq := rfl
@[simp] theorem State.setArea_passSeq : (s.setArea n x).passSeq = s.passSeq := rfl
@[simp] theorem State.setArea_engines : (s.setArea n x).engines = s.engines := rfl
@[simp] theorem State.setArea_windows : (s.setArea n x).windows = s.windows := rfl
@[simp] theorem State.setArea_slices : (s.setArea n x).slices = s.slices := rfl
@[simp] theorem State.setArea_books : (s.setArea n x).books = s.books := rfl
@[simp] theorem State.setArea_dram : (s.setArea n x).dram = s.dram := rfl
@[simp] theorem State.setArea_ports : (s.setArea n x).ports = s.ports := rfl
@[simp] theorem State.setArea_peers : (s.setArea n x).peers = s.peers := rfl
@[simp] theorem State.setArea_sendRx : (s.setArea n x).sendRx = s.sendRx := rfl
@[simp] theorem State.setArea_sendTx : (s.setArea n x).sendTx = s.sendTx := rfl
@[simp] theorem State.setArea_streams : (s.setArea n x).streams = s.streams := rfl
@[simp] theorem State.setArea_market : (s.setArea n x).market = s.market := rfl
@[simp] theorem State.setArea_tx : (s.setArea n x).tx = s.tx := rfl
@[simp] theorem State.setArea_bell : (s.setArea n x).bell = s.bell := rfl
@[simp] theorem State.setArea_book : (s.setArea n x).book = s.book := rfl
@[simp] theorem State.setArea_pins : (s.setArea n x).pins = s.pins := rfl
@[simp] theorem State.setArea_power : (s.setArea n x).power = s.power := rfl
@[simp] theorem State.setArea_watch : (s.setArea n x).watch = s.watch := rfl
@[simp] theorem State.setArea_sec : (s.setArea n x).sec = s.sec := rfl
@[simp] theorem State.setArea_tables : (s.setArea n x).tables = s.tables := rfl
@[simp] theorem State.setArea_ctrs : (s.setArea n x).ctrs = s.ctrs := rfl
@[simp] theorem State.eng_setArea (k : Nat) : (s.setArea n x).eng k = s.eng k := rfl
@[simp] theorem State.queue_setArea (k : Nat) : (s.setArea n x).queue k = s.queue k := rfl
@[simp] theorem State.job_setArea (k : Nat) : (s.setArea n x).job k = s.job k := rfl
@[simp] theorem State.run_setArea (k : Nat) : (s.setArea n x).run k = s.run k := rfl
@[simp] theorem State.slot_setArea (k : Nat) : (s.setArea n x).slot k = s.slot k := rfl
@[simp] theorem State.slice_setArea (k : Nat) : (s.setArea n x).slice k = s.slice k := rfl
@[simp] theorem State.port_setArea (k : Nat) : (s.setArea n x).port k = s.port k := rfl
@[simp] theorem State.peer_setArea (k : Nat) : (s.setArea n x).peer k = s.peer k := rfl
@[simp] theorem State.rx_setArea (k : Nat) : (s.setArea n x).rx k = s.rx k := rfl
@[simp] theorem State.stx_setArea (k : Nat) : (s.setArea n x).stx k = s.stx k := rfl
@[simp] theorem State.stream_setArea (k : Nat) : (s.setArea n x).stream k = s.stream k := rfl
@[simp] theorem State.table_setArea (k : Nat) : (s.setArea n x).table k = s.table k := rfl
@[simp] theorem State.cell_setArea (k : Nat) : (s.setArea n x).cell k = s.cell k := rfl
@[simp] theorem State.window_setArea (j k : Nat) : (s.setArea n x).window j k = s.window j k := rfl
@[simp] theorem State.cbSlot_setArea (j k : Nat) : (s.setArea n x).cbSlot j k = s.cbSlot j k := rfl
@[simp] theorem State.ctx_setArea (q : Path) : (s.setArea n x).ctx q = s.ctx q := rfl
@[simp] theorem State.byte_setArea (k : Nat) : (s.setArea n x).byte k = s.byte k := rfl
@[simp] theorem State.bytes_setArea (j k : Nat) : (s.setArea n x).bytes j k = s.bytes j k := rfl
@[simp] theorem State.ctr_setArea (j k l : Nat) : (s.setArea n x).ctr j k l = s.ctr j k l := rfl
@[simp] theorem State.entry_setArea (k : Nat) : (s.setArea n x).entry k = s.entry k := rfl
end

/-! ## setSlot -/

section
variable (s : State) (n : Nat) (x : Slot)
@[simp] theorem State.setSlot_slots : (s.setSlot n x).slots = Tab.set {} s.slots n x := rfl
@[simp] theorem State.setSlot_pending : (s.setSlot n x).pending = s.pending := rfl
@[simp] theorem State.setSlot_fresh : (s.setSlot n x).fresh = s.fresh := rfl
@[simp] theorem State.setSlot_dev : (s.setSlot n x).dev = s.dev := rfl
@[simp] theorem State.setSlot_ctxs : (s.setSlot n x).ctxs = s.ctxs := rfl
@[simp] theorem State.setSlot_queues : (s.setSlot n x).queues = s.queues := rfl
@[simp] theorem State.setSlot_ledger : (s.setSlot n x).ledger = s.ledger := rfl
@[simp] theorem State.setSlot_mirror : (s.setSlot n x).mirror = s.mirror := rfl
@[simp] theorem State.setSlot_badP : (s.setSlot n x).badP = s.badP := rfl
@[simp] theorem State.setSlot_badM : (s.setSlot n x).badM = s.badM := rfl
@[simp] theorem State.setSlot_jobs : (s.setSlot n x).jobs = s.jobs := rfl
@[simp] theorem State.setSlot_runs : (s.setSlot n x).runs = s.runs := rfl
@[simp] theorem State.setSlot_areas : (s.setSlot n x).areas = s.areas := rfl
@[simp] theorem State.setSlot_cells : (s.setSlot n x).cells = s.cells := rfl
@[simp] theorem State.setSlot_admitting : (s.setSlot n x).admitting = s.admitting := rfl
@[simp] theorem State.setSlot_slotSeq : (s.setSlot n x).slotSeq = s.slotSeq := rfl
@[simp] theorem State.setSlot_passSeq : (s.setSlot n x).passSeq = s.passSeq := rfl
@[simp] theorem State.setSlot_engines : (s.setSlot n x).engines = s.engines := rfl
@[simp] theorem State.setSlot_windows : (s.setSlot n x).windows = s.windows := rfl
@[simp] theorem State.setSlot_slices : (s.setSlot n x).slices = s.slices := rfl
@[simp] theorem State.setSlot_books : (s.setSlot n x).books = s.books := rfl
@[simp] theorem State.setSlot_dram : (s.setSlot n x).dram = s.dram := rfl
@[simp] theorem State.setSlot_ports : (s.setSlot n x).ports = s.ports := rfl
@[simp] theorem State.setSlot_peers : (s.setSlot n x).peers = s.peers := rfl
@[simp] theorem State.setSlot_sendRx : (s.setSlot n x).sendRx = s.sendRx := rfl
@[simp] theorem State.setSlot_sendTx : (s.setSlot n x).sendTx = s.sendTx := rfl
@[simp] theorem State.setSlot_streams : (s.setSlot n x).streams = s.streams := rfl
@[simp] theorem State.setSlot_market : (s.setSlot n x).market = s.market := rfl
@[simp] theorem State.setSlot_tx : (s.setSlot n x).tx = s.tx := rfl
@[simp] theorem State.setSlot_bell : (s.setSlot n x).bell = s.bell := rfl
@[simp] theorem State.setSlot_book : (s.setSlot n x).book = s.book := rfl
@[simp] theorem State.setSlot_pins : (s.setSlot n x).pins = s.pins := rfl
@[simp] theorem State.setSlot_power : (s.setSlot n x).power = s.power := rfl
@[simp] theorem State.setSlot_watch : (s.setSlot n x).watch = s.watch := rfl
@[simp] theorem State.setSlot_sec : (s.setSlot n x).sec = s.sec := rfl
@[simp] theorem State.setSlot_tables : (s.setSlot n x).tables = s.tables := rfl
@[simp] theorem State.setSlot_ctrs : (s.setSlot n x).ctrs = s.ctrs := rfl
@[simp] theorem State.eng_setSlot (k : Nat) : (s.setSlot n x).eng k = s.eng k := rfl
@[simp] theorem State.queue_setSlot (k : Nat) : (s.setSlot n x).queue k = s.queue k := rfl
@[simp] theorem State.job_setSlot (k : Nat) : (s.setSlot n x).job k = s.job k := rfl
@[simp] theorem State.run_setSlot (k : Nat) : (s.setSlot n x).run k = s.run k := rfl
@[simp] theorem State.area_setSlot (k : Nat) : (s.setSlot n x).area k = s.area k := rfl
@[simp] theorem State.slice_setSlot (k : Nat) : (s.setSlot n x).slice k = s.slice k := rfl
@[simp] theorem State.port_setSlot (k : Nat) : (s.setSlot n x).port k = s.port k := rfl
@[simp] theorem State.peer_setSlot (k : Nat) : (s.setSlot n x).peer k = s.peer k := rfl
@[simp] theorem State.rx_setSlot (k : Nat) : (s.setSlot n x).rx k = s.rx k := rfl
@[simp] theorem State.stx_setSlot (k : Nat) : (s.setSlot n x).stx k = s.stx k := rfl
@[simp] theorem State.stream_setSlot (k : Nat) : (s.setSlot n x).stream k = s.stream k := rfl
@[simp] theorem State.table_setSlot (k : Nat) : (s.setSlot n x).table k = s.table k := rfl
@[simp] theorem State.cell_setSlot (k : Nat) : (s.setSlot n x).cell k = s.cell k := rfl
@[simp] theorem State.window_setSlot (j k : Nat) : (s.setSlot n x).window j k = s.window j k := rfl
@[simp] theorem State.cbSlot_setSlot (j k : Nat) : (s.setSlot n x).cbSlot j k = s.cbSlot j k := rfl
@[simp] theorem State.ctx_setSlot (q : Path) : (s.setSlot n x).ctx q = s.ctx q := rfl
@[simp] theorem State.byte_setSlot (k : Nat) : (s.setSlot n x).byte k = s.byte k := rfl
@[simp] theorem State.bytes_setSlot (j k : Nat) : (s.setSlot n x).bytes j k = s.bytes j k := rfl
@[simp] theorem State.ctr_setSlot (j k l : Nat) : (s.setSlot n x).ctr j k l = s.ctr j k l := rfl
@[simp] theorem State.entry_setSlot (k : Nat) : (s.setSlot n x).entry k = s.entry k := rfl
end

/-! ## setSlice -/

section
variable (s : State) (n : Nat) (x : Slice)
@[simp] theorem State.setSlice_slices : (s.setSlice n x).slices = Tab.set {} s.slices n x := rfl
@[simp] theorem State.setSlice_pending : (s.setSlice n x).pending = s.pending := rfl
@[simp] theorem State.setSlice_fresh : (s.setSlice n x).fresh = s.fresh := rfl
@[simp] theorem State.setSlice_dev : (s.setSlice n x).dev = s.dev := rfl
@[simp] theorem State.setSlice_ctxs : (s.setSlice n x).ctxs = s.ctxs := rfl
@[simp] theorem State.setSlice_queues : (s.setSlice n x).queues = s.queues := rfl
@[simp] theorem State.setSlice_ledger : (s.setSlice n x).ledger = s.ledger := rfl
@[simp] theorem State.setSlice_mirror : (s.setSlice n x).mirror = s.mirror := rfl
@[simp] theorem State.setSlice_badP : (s.setSlice n x).badP = s.badP := rfl
@[simp] theorem State.setSlice_badM : (s.setSlice n x).badM = s.badM := rfl
@[simp] theorem State.setSlice_jobs : (s.setSlice n x).jobs = s.jobs := rfl
@[simp] theorem State.setSlice_runs : (s.setSlice n x).runs = s.runs := rfl
@[simp] theorem State.setSlice_areas : (s.setSlice n x).areas = s.areas := rfl
@[simp] theorem State.setSlice_cells : (s.setSlice n x).cells = s.cells := rfl
@[simp] theorem State.setSlice_admitting : (s.setSlice n x).admitting = s.admitting := rfl
@[simp] theorem State.setSlice_slots : (s.setSlice n x).slots = s.slots := rfl
@[simp] theorem State.setSlice_slotSeq : (s.setSlice n x).slotSeq = s.slotSeq := rfl
@[simp] theorem State.setSlice_passSeq : (s.setSlice n x).passSeq = s.passSeq := rfl
@[simp] theorem State.setSlice_engines : (s.setSlice n x).engines = s.engines := rfl
@[simp] theorem State.setSlice_windows : (s.setSlice n x).windows = s.windows := rfl
@[simp] theorem State.setSlice_books : (s.setSlice n x).books = s.books := rfl
@[simp] theorem State.setSlice_dram : (s.setSlice n x).dram = s.dram := rfl
@[simp] theorem State.setSlice_ports : (s.setSlice n x).ports = s.ports := rfl
@[simp] theorem State.setSlice_peers : (s.setSlice n x).peers = s.peers := rfl
@[simp] theorem State.setSlice_sendRx : (s.setSlice n x).sendRx = s.sendRx := rfl
@[simp] theorem State.setSlice_sendTx : (s.setSlice n x).sendTx = s.sendTx := rfl
@[simp] theorem State.setSlice_streams : (s.setSlice n x).streams = s.streams := rfl
@[simp] theorem State.setSlice_market : (s.setSlice n x).market = s.market := rfl
@[simp] theorem State.setSlice_tx : (s.setSlice n x).tx = s.tx := rfl
@[simp] theorem State.setSlice_bell : (s.setSlice n x).bell = s.bell := rfl
@[simp] theorem State.setSlice_book : (s.setSlice n x).book = s.book := rfl
@[simp] theorem State.setSlice_pins : (s.setSlice n x).pins = s.pins := rfl
@[simp] theorem State.setSlice_power : (s.setSlice n x).power = s.power := rfl
@[simp] theorem State.setSlice_watch : (s.setSlice n x).watch = s.watch := rfl
@[simp] theorem State.setSlice_sec : (s.setSlice n x).sec = s.sec := rfl
@[simp] theorem State.setSlice_tables : (s.setSlice n x).tables = s.tables := rfl
@[simp] theorem State.setSlice_ctrs : (s.setSlice n x).ctrs = s.ctrs := rfl
@[simp] theorem State.eng_setSlice (k : Nat) : (s.setSlice n x).eng k = s.eng k := rfl
@[simp] theorem State.queue_setSlice (k : Nat) : (s.setSlice n x).queue k = s.queue k := rfl
@[simp] theorem State.job_setSlice (k : Nat) : (s.setSlice n x).job k = s.job k := rfl
@[simp] theorem State.run_setSlice (k : Nat) : (s.setSlice n x).run k = s.run k := rfl
@[simp] theorem State.area_setSlice (k : Nat) : (s.setSlice n x).area k = s.area k := rfl
@[simp] theorem State.slot_setSlice (k : Nat) : (s.setSlice n x).slot k = s.slot k := rfl
@[simp] theorem State.port_setSlice (k : Nat) : (s.setSlice n x).port k = s.port k := rfl
@[simp] theorem State.peer_setSlice (k : Nat) : (s.setSlice n x).peer k = s.peer k := rfl
@[simp] theorem State.rx_setSlice (k : Nat) : (s.setSlice n x).rx k = s.rx k := rfl
@[simp] theorem State.stx_setSlice (k : Nat) : (s.setSlice n x).stx k = s.stx k := rfl
@[simp] theorem State.stream_setSlice (k : Nat) : (s.setSlice n x).stream k = s.stream k := rfl
@[simp] theorem State.table_setSlice (k : Nat) : (s.setSlice n x).table k = s.table k := rfl
@[simp] theorem State.cell_setSlice (k : Nat) : (s.setSlice n x).cell k = s.cell k := rfl
@[simp] theorem State.window_setSlice (j k : Nat) : (s.setSlice n x).window j k = s.window j k := rfl
@[simp] theorem State.cbSlot_setSlice (j k : Nat) : (s.setSlice n x).cbSlot j k = s.cbSlot j k := rfl
@[simp] theorem State.ctx_setSlice (q : Path) : (s.setSlice n x).ctx q = s.ctx q := rfl
@[simp] theorem State.byte_setSlice (k : Nat) : (s.setSlice n x).byte k = s.byte k := rfl
@[simp] theorem State.bytes_setSlice (j k : Nat) : (s.setSlice n x).bytes j k = s.bytes j k := rfl
@[simp] theorem State.ctr_setSlice (j k l : Nat) : (s.setSlice n x).ctr j k l = s.ctr j k l := rfl
@[simp] theorem State.entry_setSlice (k : Nat) : (s.setSlice n x).entry k = s.entry k := rfl
end

/-! ## setPort -/

section
variable (s : State) (n : Nat) (x : Port)
@[simp] theorem State.setPort_ports : (s.setPort n x).ports = Tab.set {} s.ports n x := rfl
@[simp] theorem State.setPort_pending : (s.setPort n x).pending = s.pending := rfl
@[simp] theorem State.setPort_fresh : (s.setPort n x).fresh = s.fresh := rfl
@[simp] theorem State.setPort_dev : (s.setPort n x).dev = s.dev := rfl
@[simp] theorem State.setPort_ctxs : (s.setPort n x).ctxs = s.ctxs := rfl
@[simp] theorem State.setPort_queues : (s.setPort n x).queues = s.queues := rfl
@[simp] theorem State.setPort_ledger : (s.setPort n x).ledger = s.ledger := rfl
@[simp] theorem State.setPort_mirror : (s.setPort n x).mirror = s.mirror := rfl
@[simp] theorem State.setPort_badP : (s.setPort n x).badP = s.badP := rfl
@[simp] theorem State.setPort_badM : (s.setPort n x).badM = s.badM := rfl
@[simp] theorem State.setPort_jobs : (s.setPort n x).jobs = s.jobs := rfl
@[simp] theorem State.setPort_runs : (s.setPort n x).runs = s.runs := rfl
@[simp] theorem State.setPort_areas : (s.setPort n x).areas = s.areas := rfl
@[simp] theorem State.setPort_cells : (s.setPort n x).cells = s.cells := rfl
@[simp] theorem State.setPort_admitting : (s.setPort n x).admitting = s.admitting := rfl
@[simp] theorem State.setPort_slots : (s.setPort n x).slots = s.slots := rfl
@[simp] theorem State.setPort_slotSeq : (s.setPort n x).slotSeq = s.slotSeq := rfl
@[simp] theorem State.setPort_passSeq : (s.setPort n x).passSeq = s.passSeq := rfl
@[simp] theorem State.setPort_engines : (s.setPort n x).engines = s.engines := rfl
@[simp] theorem State.setPort_windows : (s.setPort n x).windows = s.windows := rfl
@[simp] theorem State.setPort_slices : (s.setPort n x).slices = s.slices := rfl
@[simp] theorem State.setPort_books : (s.setPort n x).books = s.books := rfl
@[simp] theorem State.setPort_dram : (s.setPort n x).dram = s.dram := rfl
@[simp] theorem State.setPort_peers : (s.setPort n x).peers = s.peers := rfl
@[simp] theorem State.setPort_sendRx : (s.setPort n x).sendRx = s.sendRx := rfl
@[simp] theorem State.setPort_sendTx : (s.setPort n x).sendTx = s.sendTx := rfl
@[simp] theorem State.setPort_streams : (s.setPort n x).streams = s.streams := rfl
@[simp] theorem State.setPort_market : (s.setPort n x).market = s.market := rfl
@[simp] theorem State.setPort_tx : (s.setPort n x).tx = s.tx := rfl
@[simp] theorem State.setPort_bell : (s.setPort n x).bell = s.bell := rfl
@[simp] theorem State.setPort_book : (s.setPort n x).book = s.book := rfl
@[simp] theorem State.setPort_pins : (s.setPort n x).pins = s.pins := rfl
@[simp] theorem State.setPort_power : (s.setPort n x).power = s.power := rfl
@[simp] theorem State.setPort_watch : (s.setPort n x).watch = s.watch := rfl
@[simp] theorem State.setPort_sec : (s.setPort n x).sec = s.sec := rfl
@[simp] theorem State.setPort_tables : (s.setPort n x).tables = s.tables := rfl
@[simp] theorem State.setPort_ctrs : (s.setPort n x).ctrs = s.ctrs := rfl
@[simp] theorem State.eng_setPort (k : Nat) : (s.setPort n x).eng k = s.eng k := rfl
@[simp] theorem State.queue_setPort (k : Nat) : (s.setPort n x).queue k = s.queue k := rfl
@[simp] theorem State.job_setPort (k : Nat) : (s.setPort n x).job k = s.job k := rfl
@[simp] theorem State.run_setPort (k : Nat) : (s.setPort n x).run k = s.run k := rfl
@[simp] theorem State.area_setPort (k : Nat) : (s.setPort n x).area k = s.area k := rfl
@[simp] theorem State.slot_setPort (k : Nat) : (s.setPort n x).slot k = s.slot k := rfl
@[simp] theorem State.slice_setPort (k : Nat) : (s.setPort n x).slice k = s.slice k := rfl
@[simp] theorem State.peer_setPort (k : Nat) : (s.setPort n x).peer k = s.peer k := rfl
@[simp] theorem State.rx_setPort (k : Nat) : (s.setPort n x).rx k = s.rx k := rfl
@[simp] theorem State.stx_setPort (k : Nat) : (s.setPort n x).stx k = s.stx k := rfl
@[simp] theorem State.stream_setPort (k : Nat) : (s.setPort n x).stream k = s.stream k := rfl
@[simp] theorem State.table_setPort (k : Nat) : (s.setPort n x).table k = s.table k := rfl
@[simp] theorem State.cell_setPort (k : Nat) : (s.setPort n x).cell k = s.cell k := rfl
@[simp] theorem State.window_setPort (j k : Nat) : (s.setPort n x).window j k = s.window j k := rfl
@[simp] theorem State.cbSlot_setPort (j k : Nat) : (s.setPort n x).cbSlot j k = s.cbSlot j k := rfl
@[simp] theorem State.ctx_setPort (q : Path) : (s.setPort n x).ctx q = s.ctx q := rfl
@[simp] theorem State.byte_setPort (k : Nat) : (s.setPort n x).byte k = s.byte k := rfl
@[simp] theorem State.bytes_setPort (j k : Nat) : (s.setPort n x).bytes j k = s.bytes j k := rfl
@[simp] theorem State.ctr_setPort (j k l : Nat) : (s.setPort n x).ctr j k l = s.ctr j k l := rfl
@[simp] theorem State.entry_setPort (k : Nat) : (s.setPort n x).entry k = s.entry k := rfl
end

/-! ## setPeer -/

section
variable (s : State) (n : Nat) (x : Peer)
@[simp] theorem State.setPeer_peers : (s.setPeer n x).peers = Tab.set {} s.peers n x := rfl
@[simp] theorem State.setPeer_pending : (s.setPeer n x).pending = s.pending := rfl
@[simp] theorem State.setPeer_fresh : (s.setPeer n x).fresh = s.fresh := rfl
@[simp] theorem State.setPeer_dev : (s.setPeer n x).dev = s.dev := rfl
@[simp] theorem State.setPeer_ctxs : (s.setPeer n x).ctxs = s.ctxs := rfl
@[simp] theorem State.setPeer_queues : (s.setPeer n x).queues = s.queues := rfl
@[simp] theorem State.setPeer_ledger : (s.setPeer n x).ledger = s.ledger := rfl
@[simp] theorem State.setPeer_mirror : (s.setPeer n x).mirror = s.mirror := rfl
@[simp] theorem State.setPeer_badP : (s.setPeer n x).badP = s.badP := rfl
@[simp] theorem State.setPeer_badM : (s.setPeer n x).badM = s.badM := rfl
@[simp] theorem State.setPeer_jobs : (s.setPeer n x).jobs = s.jobs := rfl
@[simp] theorem State.setPeer_runs : (s.setPeer n x).runs = s.runs := rfl
@[simp] theorem State.setPeer_areas : (s.setPeer n x).areas = s.areas := rfl
@[simp] theorem State.setPeer_cells : (s.setPeer n x).cells = s.cells := rfl
@[simp] theorem State.setPeer_admitting : (s.setPeer n x).admitting = s.admitting := rfl
@[simp] theorem State.setPeer_slots : (s.setPeer n x).slots = s.slots := rfl
@[simp] theorem State.setPeer_slotSeq : (s.setPeer n x).slotSeq = s.slotSeq := rfl
@[simp] theorem State.setPeer_passSeq : (s.setPeer n x).passSeq = s.passSeq := rfl
@[simp] theorem State.setPeer_engines : (s.setPeer n x).engines = s.engines := rfl
@[simp] theorem State.setPeer_windows : (s.setPeer n x).windows = s.windows := rfl
@[simp] theorem State.setPeer_slices : (s.setPeer n x).slices = s.slices := rfl
@[simp] theorem State.setPeer_books : (s.setPeer n x).books = s.books := rfl
@[simp] theorem State.setPeer_dram : (s.setPeer n x).dram = s.dram := rfl
@[simp] theorem State.setPeer_ports : (s.setPeer n x).ports = s.ports := rfl
@[simp] theorem State.setPeer_sendRx : (s.setPeer n x).sendRx = s.sendRx := rfl
@[simp] theorem State.setPeer_sendTx : (s.setPeer n x).sendTx = s.sendTx := rfl
@[simp] theorem State.setPeer_streams : (s.setPeer n x).streams = s.streams := rfl
@[simp] theorem State.setPeer_market : (s.setPeer n x).market = s.market := rfl
@[simp] theorem State.setPeer_tx : (s.setPeer n x).tx = s.tx := rfl
@[simp] theorem State.setPeer_bell : (s.setPeer n x).bell = s.bell := rfl
@[simp] theorem State.setPeer_book : (s.setPeer n x).book = s.book := rfl
@[simp] theorem State.setPeer_pins : (s.setPeer n x).pins = s.pins := rfl
@[simp] theorem State.setPeer_power : (s.setPeer n x).power = s.power := rfl
@[simp] theorem State.setPeer_watch : (s.setPeer n x).watch = s.watch := rfl
@[simp] theorem State.setPeer_sec : (s.setPeer n x).sec = s.sec := rfl
@[simp] theorem State.setPeer_tables : (s.setPeer n x).tables = s.tables := rfl
@[simp] theorem State.setPeer_ctrs : (s.setPeer n x).ctrs = s.ctrs := rfl
@[simp] theorem State.eng_setPeer (k : Nat) : (s.setPeer n x).eng k = s.eng k := rfl
@[simp] theorem State.queue_setPeer (k : Nat) : (s.setPeer n x).queue k = s.queue k := rfl
@[simp] theorem State.job_setPeer (k : Nat) : (s.setPeer n x).job k = s.job k := rfl
@[simp] theorem State.run_setPeer (k : Nat) : (s.setPeer n x).run k = s.run k := rfl
@[simp] theorem State.area_setPeer (k : Nat) : (s.setPeer n x).area k = s.area k := rfl
@[simp] theorem State.slot_setPeer (k : Nat) : (s.setPeer n x).slot k = s.slot k := rfl
@[simp] theorem State.slice_setPeer (k : Nat) : (s.setPeer n x).slice k = s.slice k := rfl
@[simp] theorem State.port_setPeer (k : Nat) : (s.setPeer n x).port k = s.port k := rfl
@[simp] theorem State.rx_setPeer (k : Nat) : (s.setPeer n x).rx k = s.rx k := rfl
@[simp] theorem State.stx_setPeer (k : Nat) : (s.setPeer n x).stx k = s.stx k := rfl
@[simp] theorem State.stream_setPeer (k : Nat) : (s.setPeer n x).stream k = s.stream k := rfl
@[simp] theorem State.table_setPeer (k : Nat) : (s.setPeer n x).table k = s.table k := rfl
@[simp] theorem State.cell_setPeer (k : Nat) : (s.setPeer n x).cell k = s.cell k := rfl
@[simp] theorem State.window_setPeer (j k : Nat) : (s.setPeer n x).window j k = s.window j k := rfl
@[simp] theorem State.cbSlot_setPeer (j k : Nat) : (s.setPeer n x).cbSlot j k = s.cbSlot j k := rfl
@[simp] theorem State.ctx_setPeer (q : Path) : (s.setPeer n x).ctx q = s.ctx q := rfl
@[simp] theorem State.byte_setPeer (k : Nat) : (s.setPeer n x).byte k = s.byte k := rfl
@[simp] theorem State.bytes_setPeer (j k : Nat) : (s.setPeer n x).bytes j k = s.bytes j k := rfl
@[simp] theorem State.ctr_setPeer (j k l : Nat) : (s.setPeer n x).ctr j k l = s.ctr j k l := rfl
@[simp] theorem State.entry_setPeer (k : Nat) : (s.setPeer n x).entry k = s.entry k := rfl
end

/-! ## setRx -/

section
variable (s : State) (n : Nat) (x : SendRx)
@[simp] theorem State.setRx_sendRx : (s.setRx n x).sendRx = Tab.set {} s.sendRx n x := rfl
@[simp] theorem State.setRx_pending : (s.setRx n x).pending = s.pending := rfl
@[simp] theorem State.setRx_fresh : (s.setRx n x).fresh = s.fresh := rfl
@[simp] theorem State.setRx_dev : (s.setRx n x).dev = s.dev := rfl
@[simp] theorem State.setRx_ctxs : (s.setRx n x).ctxs = s.ctxs := rfl
@[simp] theorem State.setRx_queues : (s.setRx n x).queues = s.queues := rfl
@[simp] theorem State.setRx_ledger : (s.setRx n x).ledger = s.ledger := rfl
@[simp] theorem State.setRx_mirror : (s.setRx n x).mirror = s.mirror := rfl
@[simp] theorem State.setRx_badP : (s.setRx n x).badP = s.badP := rfl
@[simp] theorem State.setRx_badM : (s.setRx n x).badM = s.badM := rfl
@[simp] theorem State.setRx_jobs : (s.setRx n x).jobs = s.jobs := rfl
@[simp] theorem State.setRx_runs : (s.setRx n x).runs = s.runs := rfl
@[simp] theorem State.setRx_areas : (s.setRx n x).areas = s.areas := rfl
@[simp] theorem State.setRx_cells : (s.setRx n x).cells = s.cells := rfl
@[simp] theorem State.setRx_admitting : (s.setRx n x).admitting = s.admitting := rfl
@[simp] theorem State.setRx_slots : (s.setRx n x).slots = s.slots := rfl
@[simp] theorem State.setRx_slotSeq : (s.setRx n x).slotSeq = s.slotSeq := rfl
@[simp] theorem State.setRx_passSeq : (s.setRx n x).passSeq = s.passSeq := rfl
@[simp] theorem State.setRx_engines : (s.setRx n x).engines = s.engines := rfl
@[simp] theorem State.setRx_windows : (s.setRx n x).windows = s.windows := rfl
@[simp] theorem State.setRx_slices : (s.setRx n x).slices = s.slices := rfl
@[simp] theorem State.setRx_books : (s.setRx n x).books = s.books := rfl
@[simp] theorem State.setRx_dram : (s.setRx n x).dram = s.dram := rfl
@[simp] theorem State.setRx_ports : (s.setRx n x).ports = s.ports := rfl
@[simp] theorem State.setRx_peers : (s.setRx n x).peers = s.peers := rfl
@[simp] theorem State.setRx_sendTx : (s.setRx n x).sendTx = s.sendTx := rfl
@[simp] theorem State.setRx_streams : (s.setRx n x).streams = s.streams := rfl
@[simp] theorem State.setRx_market : (s.setRx n x).market = s.market := rfl
@[simp] theorem State.setRx_tx : (s.setRx n x).tx = s.tx := rfl
@[simp] theorem State.setRx_bell : (s.setRx n x).bell = s.bell := rfl
@[simp] theorem State.setRx_book : (s.setRx n x).book = s.book := rfl
@[simp] theorem State.setRx_pins : (s.setRx n x).pins = s.pins := rfl
@[simp] theorem State.setRx_power : (s.setRx n x).power = s.power := rfl
@[simp] theorem State.setRx_watch : (s.setRx n x).watch = s.watch := rfl
@[simp] theorem State.setRx_sec : (s.setRx n x).sec = s.sec := rfl
@[simp] theorem State.setRx_tables : (s.setRx n x).tables = s.tables := rfl
@[simp] theorem State.setRx_ctrs : (s.setRx n x).ctrs = s.ctrs := rfl
@[simp] theorem State.eng_setRx (k : Nat) : (s.setRx n x).eng k = s.eng k := rfl
@[simp] theorem State.queue_setRx (k : Nat) : (s.setRx n x).queue k = s.queue k := rfl
@[simp] theorem State.job_setRx (k : Nat) : (s.setRx n x).job k = s.job k := rfl
@[simp] theorem State.run_setRx (k : Nat) : (s.setRx n x).run k = s.run k := rfl
@[simp] theorem State.area_setRx (k : Nat) : (s.setRx n x).area k = s.area k := rfl
@[simp] theorem State.slot_setRx (k : Nat) : (s.setRx n x).slot k = s.slot k := rfl
@[simp] theorem State.slice_setRx (k : Nat) : (s.setRx n x).slice k = s.slice k := rfl
@[simp] theorem State.port_setRx (k : Nat) : (s.setRx n x).port k = s.port k := rfl
@[simp] theorem State.peer_setRx (k : Nat) : (s.setRx n x).peer k = s.peer k := rfl
@[simp] theorem State.stx_setRx (k : Nat) : (s.setRx n x).stx k = s.stx k := rfl
@[simp] theorem State.stream_setRx (k : Nat) : (s.setRx n x).stream k = s.stream k := rfl
@[simp] theorem State.table_setRx (k : Nat) : (s.setRx n x).table k = s.table k := rfl
@[simp] theorem State.cell_setRx (k : Nat) : (s.setRx n x).cell k = s.cell k := rfl
@[simp] theorem State.window_setRx (j k : Nat) : (s.setRx n x).window j k = s.window j k := rfl
@[simp] theorem State.cbSlot_setRx (j k : Nat) : (s.setRx n x).cbSlot j k = s.cbSlot j k := rfl
@[simp] theorem State.ctx_setRx (q : Path) : (s.setRx n x).ctx q = s.ctx q := rfl
@[simp] theorem State.byte_setRx (k : Nat) : (s.setRx n x).byte k = s.byte k := rfl
@[simp] theorem State.bytes_setRx (j k : Nat) : (s.setRx n x).bytes j k = s.bytes j k := rfl
@[simp] theorem State.ctr_setRx (j k l : Nat) : (s.setRx n x).ctr j k l = s.ctr j k l := rfl
@[simp] theorem State.entry_setRx (k : Nat) : (s.setRx n x).entry k = s.entry k := rfl
end

/-! ## setStx -/

section
variable (s : State) (n : Nat) (x : SendTx)
@[simp] theorem State.setStx_sendTx : (s.setStx n x).sendTx = Tab.set {} s.sendTx n x := rfl
@[simp] theorem State.setStx_pending : (s.setStx n x).pending = s.pending := rfl
@[simp] theorem State.setStx_fresh : (s.setStx n x).fresh = s.fresh := rfl
@[simp] theorem State.setStx_dev : (s.setStx n x).dev = s.dev := rfl
@[simp] theorem State.setStx_ctxs : (s.setStx n x).ctxs = s.ctxs := rfl
@[simp] theorem State.setStx_queues : (s.setStx n x).queues = s.queues := rfl
@[simp] theorem State.setStx_ledger : (s.setStx n x).ledger = s.ledger := rfl
@[simp] theorem State.setStx_mirror : (s.setStx n x).mirror = s.mirror := rfl
@[simp] theorem State.setStx_badP : (s.setStx n x).badP = s.badP := rfl
@[simp] theorem State.setStx_badM : (s.setStx n x).badM = s.badM := rfl
@[simp] theorem State.setStx_jobs : (s.setStx n x).jobs = s.jobs := rfl
@[simp] theorem State.setStx_runs : (s.setStx n x).runs = s.runs := rfl
@[simp] theorem State.setStx_areas : (s.setStx n x).areas = s.areas := rfl
@[simp] theorem State.setStx_cells : (s.setStx n x).cells = s.cells := rfl
@[simp] theorem State.setStx_admitting : (s.setStx n x).admitting = s.admitting := rfl
@[simp] theorem State.setStx_slots : (s.setStx n x).slots = s.slots := rfl
@[simp] theorem State.setStx_slotSeq : (s.setStx n x).slotSeq = s.slotSeq := rfl
@[simp] theorem State.setStx_passSeq : (s.setStx n x).passSeq = s.passSeq := rfl
@[simp] theorem State.setStx_engines : (s.setStx n x).engines = s.engines := rfl
@[simp] theorem State.setStx_windows : (s.setStx n x).windows = s.windows := rfl
@[simp] theorem State.setStx_slices : (s.setStx n x).slices = s.slices := rfl
@[simp] theorem State.setStx_books : (s.setStx n x).books = s.books := rfl
@[simp] theorem State.setStx_dram : (s.setStx n x).dram = s.dram := rfl
@[simp] theorem State.setStx_ports : (s.setStx n x).ports = s.ports := rfl
@[simp] theorem State.setStx_peers : (s.setStx n x).peers = s.peers := rfl
@[simp] theorem State.setStx_sendRx : (s.setStx n x).sendRx = s.sendRx := rfl
@[simp] theorem State.setStx_streams : (s.setStx n x).streams = s.streams := rfl
@[simp] theorem State.setStx_market : (s.setStx n x).market = s.market := rfl
@[simp] theorem State.setStx_tx : (s.setStx n x).tx = s.tx := rfl
@[simp] theorem State.setStx_bell : (s.setStx n x).bell = s.bell := rfl
@[simp] theorem State.setStx_book : (s.setStx n x).book = s.book := rfl
@[simp] theorem State.setStx_pins : (s.setStx n x).pins = s.pins := rfl
@[simp] theorem State.setStx_power : (s.setStx n x).power = s.power := rfl
@[simp] theorem State.setStx_watch : (s.setStx n x).watch = s.watch := rfl
@[simp] theorem State.setStx_sec : (s.setStx n x).sec = s.sec := rfl
@[simp] theorem State.setStx_tables : (s.setStx n x).tables = s.tables := rfl
@[simp] theorem State.setStx_ctrs : (s.setStx n x).ctrs = s.ctrs := rfl
@[simp] theorem State.eng_setStx (k : Nat) : (s.setStx n x).eng k = s.eng k := rfl
@[simp] theorem State.queue_setStx (k : Nat) : (s.setStx n x).queue k = s.queue k := rfl
@[simp] theorem State.job_setStx (k : Nat) : (s.setStx n x).job k = s.job k := rfl
@[simp] theorem State.run_setStx (k : Nat) : (s.setStx n x).run k = s.run k := rfl
@[simp] theorem State.area_setStx (k : Nat) : (s.setStx n x).area k = s.area k := rfl
@[simp] theorem State.slot_setStx (k : Nat) : (s.setStx n x).slot k = s.slot k := rfl
@[simp] theorem State.slice_setStx (k : Nat) : (s.setStx n x).slice k = s.slice k := rfl
@[simp] theorem State.port_setStx (k : Nat) : (s.setStx n x).port k = s.port k := rfl
@[simp] theorem State.peer_setStx (k : Nat) : (s.setStx n x).peer k = s.peer k := rfl
@[simp] theorem State.rx_setStx (k : Nat) : (s.setStx n x).rx k = s.rx k := rfl
@[simp] theorem State.stream_setStx (k : Nat) : (s.setStx n x).stream k = s.stream k := rfl
@[simp] theorem State.table_setStx (k : Nat) : (s.setStx n x).table k = s.table k := rfl
@[simp] theorem State.cell_setStx (k : Nat) : (s.setStx n x).cell k = s.cell k := rfl
@[simp] theorem State.window_setStx (j k : Nat) : (s.setStx n x).window j k = s.window j k := rfl
@[simp] theorem State.cbSlot_setStx (j k : Nat) : (s.setStx n x).cbSlot j k = s.cbSlot j k := rfl
@[simp] theorem State.ctx_setStx (q : Path) : (s.setStx n x).ctx q = s.ctx q := rfl
@[simp] theorem State.byte_setStx (k : Nat) : (s.setStx n x).byte k = s.byte k := rfl
@[simp] theorem State.bytes_setStx (j k : Nat) : (s.setStx n x).bytes j k = s.bytes j k := rfl
@[simp] theorem State.ctr_setStx (j k l : Nat) : (s.setStx n x).ctr j k l = s.ctr j k l := rfl
@[simp] theorem State.entry_setStx (k : Nat) : (s.setStx n x).entry k = s.entry k := rfl
end

/-! ## setStream -/

section
variable (s : State) (n : Nat) (x : Stream)
@[simp] theorem State.setStream_streams : (s.setStream n x).streams = Tab.set {} s.streams n x := rfl
@[simp] theorem State.setStream_pending : (s.setStream n x).pending = s.pending := rfl
@[simp] theorem State.setStream_fresh : (s.setStream n x).fresh = s.fresh := rfl
@[simp] theorem State.setStream_dev : (s.setStream n x).dev = s.dev := rfl
@[simp] theorem State.setStream_ctxs : (s.setStream n x).ctxs = s.ctxs := rfl
@[simp] theorem State.setStream_queues : (s.setStream n x).queues = s.queues := rfl
@[simp] theorem State.setStream_ledger : (s.setStream n x).ledger = s.ledger := rfl
@[simp] theorem State.setStream_mirror : (s.setStream n x).mirror = s.mirror := rfl
@[simp] theorem State.setStream_badP : (s.setStream n x).badP = s.badP := rfl
@[simp] theorem State.setStream_badM : (s.setStream n x).badM = s.badM := rfl
@[simp] theorem State.setStream_jobs : (s.setStream n x).jobs = s.jobs := rfl
@[simp] theorem State.setStream_runs : (s.setStream n x).runs = s.runs := rfl
@[simp] theorem State.setStream_areas : (s.setStream n x).areas = s.areas := rfl
@[simp] theorem State.setStream_cells : (s.setStream n x).cells = s.cells := rfl
@[simp] theorem State.setStream_admitting : (s.setStream n x).admitting = s.admitting := rfl
@[simp] theorem State.setStream_slots : (s.setStream n x).slots = s.slots := rfl
@[simp] theorem State.setStream_slotSeq : (s.setStream n x).slotSeq = s.slotSeq := rfl
@[simp] theorem State.setStream_passSeq : (s.setStream n x).passSeq = s.passSeq := rfl
@[simp] theorem State.setStream_engines : (s.setStream n x).engines = s.engines := rfl
@[simp] theorem State.setStream_windows : (s.setStream n x).windows = s.windows := rfl
@[simp] theorem State.setStream_slices : (s.setStream n x).slices = s.slices := rfl
@[simp] theorem State.setStream_books : (s.setStream n x).books = s.books := rfl
@[simp] theorem State.setStream_dram : (s.setStream n x).dram = s.dram := rfl
@[simp] theorem State.setStream_ports : (s.setStream n x).ports = s.ports := rfl
@[simp] theorem State.setStream_peers : (s.setStream n x).peers = s.peers := rfl
@[simp] theorem State.setStream_sendRx : (s.setStream n x).sendRx = s.sendRx := rfl
@[simp] theorem State.setStream_sendTx : (s.setStream n x).sendTx = s.sendTx := rfl
@[simp] theorem State.setStream_market : (s.setStream n x).market = s.market := rfl
@[simp] theorem State.setStream_tx : (s.setStream n x).tx = s.tx := rfl
@[simp] theorem State.setStream_bell : (s.setStream n x).bell = s.bell := rfl
@[simp] theorem State.setStream_book : (s.setStream n x).book = s.book := rfl
@[simp] theorem State.setStream_pins : (s.setStream n x).pins = s.pins := rfl
@[simp] theorem State.setStream_power : (s.setStream n x).power = s.power := rfl
@[simp] theorem State.setStream_watch : (s.setStream n x).watch = s.watch := rfl
@[simp] theorem State.setStream_sec : (s.setStream n x).sec = s.sec := rfl
@[simp] theorem State.setStream_tables : (s.setStream n x).tables = s.tables := rfl
@[simp] theorem State.setStream_ctrs : (s.setStream n x).ctrs = s.ctrs := rfl
@[simp] theorem State.eng_setStream (k : Nat) : (s.setStream n x).eng k = s.eng k := rfl
@[simp] theorem State.queue_setStream (k : Nat) : (s.setStream n x).queue k = s.queue k := rfl
@[simp] theorem State.job_setStream (k : Nat) : (s.setStream n x).job k = s.job k := rfl
@[simp] theorem State.run_setStream (k : Nat) : (s.setStream n x).run k = s.run k := rfl
@[simp] theorem State.area_setStream (k : Nat) : (s.setStream n x).area k = s.area k := rfl
@[simp] theorem State.slot_setStream (k : Nat) : (s.setStream n x).slot k = s.slot k := rfl
@[simp] theorem State.slice_setStream (k : Nat) : (s.setStream n x).slice k = s.slice k := rfl
@[simp] theorem State.port_setStream (k : Nat) : (s.setStream n x).port k = s.port k := rfl
@[simp] theorem State.peer_setStream (k : Nat) : (s.setStream n x).peer k = s.peer k := rfl
@[simp] theorem State.rx_setStream (k : Nat) : (s.setStream n x).rx k = s.rx k := rfl
@[simp] theorem State.stx_setStream (k : Nat) : (s.setStream n x).stx k = s.stx k := rfl
@[simp] theorem State.table_setStream (k : Nat) : (s.setStream n x).table k = s.table k := rfl
@[simp] theorem State.cell_setStream (k : Nat) : (s.setStream n x).cell k = s.cell k := rfl
@[simp] theorem State.window_setStream (j k : Nat) : (s.setStream n x).window j k = s.window j k := rfl
@[simp] theorem State.cbSlot_setStream (j k : Nat) : (s.setStream n x).cbSlot j k = s.cbSlot j k := rfl
@[simp] theorem State.ctx_setStream (q : Path) : (s.setStream n x).ctx q = s.ctx q := rfl
@[simp] theorem State.byte_setStream (k : Nat) : (s.setStream n x).byte k = s.byte k := rfl
@[simp] theorem State.bytes_setStream (j k : Nat) : (s.setStream n x).bytes j k = s.bytes j k := rfl
@[simp] theorem State.ctr_setStream (j k l : Nat) : (s.setStream n x).ctr j k l = s.ctr j k l := rfl
@[simp] theorem State.entry_setStream (k : Nat) : (s.setStream n x).entry k = s.entry k := rfl
end

/-! ## setTable -/

section
variable (s : State) (n : Nat) (x : Table)
@[simp] theorem State.setTable_tables : (s.setTable n x).tables = Tab.set {} s.tables n x := rfl
@[simp] theorem State.setTable_pending : (s.setTable n x).pending = s.pending := rfl
@[simp] theorem State.setTable_fresh : (s.setTable n x).fresh = s.fresh := rfl
@[simp] theorem State.setTable_dev : (s.setTable n x).dev = s.dev := rfl
@[simp] theorem State.setTable_ctxs : (s.setTable n x).ctxs = s.ctxs := rfl
@[simp] theorem State.setTable_queues : (s.setTable n x).queues = s.queues := rfl
@[simp] theorem State.setTable_ledger : (s.setTable n x).ledger = s.ledger := rfl
@[simp] theorem State.setTable_mirror : (s.setTable n x).mirror = s.mirror := rfl
@[simp] theorem State.setTable_badP : (s.setTable n x).badP = s.badP := rfl
@[simp] theorem State.setTable_badM : (s.setTable n x).badM = s.badM := rfl
@[simp] theorem State.setTable_jobs : (s.setTable n x).jobs = s.jobs := rfl
@[simp] theorem State.setTable_runs : (s.setTable n x).runs = s.runs := rfl
@[simp] theorem State.setTable_areas : (s.setTable n x).areas = s.areas := rfl
@[simp] theorem State.setTable_cells : (s.setTable n x).cells = s.cells := rfl
@[simp] theorem State.setTable_admitting : (s.setTable n x).admitting = s.admitting := rfl
@[simp] theorem State.setTable_slots : (s.setTable n x).slots = s.slots := rfl
@[simp] theorem State.setTable_slotSeq : (s.setTable n x).slotSeq = s.slotSeq := rfl
@[simp] theorem State.setTable_passSeq : (s.setTable n x).passSeq = s.passSeq := rfl
@[simp] theorem State.setTable_engines : (s.setTable n x).engines = s.engines := rfl
@[simp] theorem State.setTable_windows : (s.setTable n x).windows = s.windows := rfl
@[simp] theorem State.setTable_slices : (s.setTable n x).slices = s.slices := rfl
@[simp] theorem State.setTable_books : (s.setTable n x).books = s.books := rfl
@[simp] theorem State.setTable_dram : (s.setTable n x).dram = s.dram := rfl
@[simp] theorem State.setTable_ports : (s.setTable n x).ports = s.ports := rfl
@[simp] theorem State.setTable_peers : (s.setTable n x).peers = s.peers := rfl
@[simp] theorem State.setTable_sendRx : (s.setTable n x).sendRx = s.sendRx := rfl
@[simp] theorem State.setTable_sendTx : (s.setTable n x).sendTx = s.sendTx := rfl
@[simp] theorem State.setTable_streams : (s.setTable n x).streams = s.streams := rfl
@[simp] theorem State.setTable_market : (s.setTable n x).market = s.market := rfl
@[simp] theorem State.setTable_tx : (s.setTable n x).tx = s.tx := rfl
@[simp] theorem State.setTable_bell : (s.setTable n x).bell = s.bell := rfl
@[simp] theorem State.setTable_book : (s.setTable n x).book = s.book := rfl
@[simp] theorem State.setTable_pins : (s.setTable n x).pins = s.pins := rfl
@[simp] theorem State.setTable_power : (s.setTable n x).power = s.power := rfl
@[simp] theorem State.setTable_watch : (s.setTable n x).watch = s.watch := rfl
@[simp] theorem State.setTable_sec : (s.setTable n x).sec = s.sec := rfl
@[simp] theorem State.setTable_ctrs : (s.setTable n x).ctrs = s.ctrs := rfl
@[simp] theorem State.eng_setTable (k : Nat) : (s.setTable n x).eng k = s.eng k := rfl
@[simp] theorem State.queue_setTable (k : Nat) : (s.setTable n x).queue k = s.queue k := rfl
@[simp] theorem State.job_setTable (k : Nat) : (s.setTable n x).job k = s.job k := rfl
@[simp] theorem State.run_setTable (k : Nat) : (s.setTable n x).run k = s.run k := rfl
@[simp] theorem State.area_setTable (k : Nat) : (s.setTable n x).area k = s.area k := rfl
@[simp] theorem State.slot_setTable (k : Nat) : (s.setTable n x).slot k = s.slot k := rfl
@[simp] theorem State.slice_setTable (k : Nat) : (s.setTable n x).slice k = s.slice k := rfl
@[simp] theorem State.port_setTable (k : Nat) : (s.setTable n x).port k = s.port k := rfl
@[simp] theorem State.peer_setTable (k : Nat) : (s.setTable n x).peer k = s.peer k := rfl
@[simp] theorem State.rx_setTable (k : Nat) : (s.setTable n x).rx k = s.rx k := rfl
@[simp] theorem State.stx_setTable (k : Nat) : (s.setTable n x).stx k = s.stx k := rfl
@[simp] theorem State.stream_setTable (k : Nat) : (s.setTable n x).stream k = s.stream k := rfl
@[simp] theorem State.cell_setTable (k : Nat) : (s.setTable n x).cell k = s.cell k := rfl
@[simp] theorem State.window_setTable (j k : Nat) : (s.setTable n x).window j k = s.window j k := rfl
@[simp] theorem State.cbSlot_setTable (j k : Nat) : (s.setTable n x).cbSlot j k = s.cbSlot j k := rfl
@[simp] theorem State.ctx_setTable (q : Path) : (s.setTable n x).ctx q = s.ctx q := rfl
@[simp] theorem State.byte_setTable (k : Nat) : (s.setTable n x).byte k = s.byte k := rfl
@[simp] theorem State.bytes_setTable (j k : Nat) : (s.setTable n x).bytes j k = s.bytes j k := rfl
@[simp] theorem State.ctr_setTable (j k l : Nat) : (s.setTable n x).ctr j k l = s.ctr j k l := rfl
@[simp] theorem State.entry_setTable (k : Nat) : (s.setTable n x).entry k = s.entry k := rfl
end

/-! ## setCell -/

section
variable (s : State) (n : Nat) (x : Option Deposit)
@[simp] theorem State.setCell_cells : (s.setCell n x).cells = Tab.set none s.cells n x := rfl
@[simp] theorem State.setCell_pending : (s.setCell n x).pending = s.pending := rfl
@[simp] theorem State.setCell_fresh : (s.setCell n x).fresh = s.fresh := rfl
@[simp] theorem State.setCell_dev : (s.setCell n x).dev = s.dev := rfl
@[simp] theorem State.setCell_ctxs : (s.setCell n x).ctxs = s.ctxs := rfl
@[simp] theorem State.setCell_queues : (s.setCell n x).queues = s.queues := rfl
@[simp] theorem State.setCell_ledger : (s.setCell n x).ledger = s.ledger := rfl
@[simp] theorem State.setCell_mirror : (s.setCell n x).mirror = s.mirror := rfl
@[simp] theorem State.setCell_badP : (s.setCell n x).badP = s.badP := rfl
@[simp] theorem State.setCell_badM : (s.setCell n x).badM = s.badM := rfl
@[simp] theorem State.setCell_jobs : (s.setCell n x).jobs = s.jobs := rfl
@[simp] theorem State.setCell_runs : (s.setCell n x).runs = s.runs := rfl
@[simp] theorem State.setCell_areas : (s.setCell n x).areas = s.areas := rfl
@[simp] theorem State.setCell_admitting : (s.setCell n x).admitting = s.admitting := rfl
@[simp] theorem State.setCell_slots : (s.setCell n x).slots = s.slots := rfl
@[simp] theorem State.setCell_slotSeq : (s.setCell n x).slotSeq = s.slotSeq := rfl
@[simp] theorem State.setCell_passSeq : (s.setCell n x).passSeq = s.passSeq := rfl
@[simp] theorem State.setCell_engines : (s.setCell n x).engines = s.engines := rfl
@[simp] theorem State.setCell_windows : (s.setCell n x).windows = s.windows := rfl
@[simp] theorem State.setCell_slices : (s.setCell n x).slices = s.slices := rfl
@[simp] theorem State.setCell_books : (s.setCell n x).books = s.books := rfl
@[simp] theorem State.setCell_dram : (s.setCell n x).dram = s.dram := rfl
@[simp] theorem State.setCell_ports : (s.setCell n x).ports = s.ports := rfl
@[simp] theorem State.setCell_peers : (s.setCell n x).peers = s.peers := rfl
@[simp] theorem State.setCell_sendRx : (s.setCell n x).sendRx = s.sendRx := rfl
@[simp] theorem State.setCell_sendTx : (s.setCell n x).sendTx = s.sendTx := rfl
@[simp] theorem State.setCell_streams : (s.setCell n x).streams = s.streams := rfl
@[simp] theorem State.setCell_market : (s.setCell n x).market = s.market := rfl
@[simp] theorem State.setCell_tx : (s.setCell n x).tx = s.tx := rfl
@[simp] theorem State.setCell_bell : (s.setCell n x).bell = s.bell := rfl
@[simp] theorem State.setCell_book : (s.setCell n x).book = s.book := rfl
@[simp] theorem State.setCell_pins : (s.setCell n x).pins = s.pins := rfl
@[simp] theorem State.setCell_power : (s.setCell n x).power = s.power := rfl
@[simp] theorem State.setCell_watch : (s.setCell n x).watch = s.watch := rfl
@[simp] theorem State.setCell_sec : (s.setCell n x).sec = s.sec := rfl
@[simp] theorem State.setCell_tables : (s.setCell n x).tables = s.tables := rfl
@[simp] theorem State.setCell_ctrs : (s.setCell n x).ctrs = s.ctrs := rfl
@[simp] theorem State.eng_setCell (k : Nat) : (s.setCell n x).eng k = s.eng k := rfl
@[simp] theorem State.queue_setCell (k : Nat) : (s.setCell n x).queue k = s.queue k := rfl
@[simp] theorem State.job_setCell (k : Nat) : (s.setCell n x).job k = s.job k := rfl
@[simp] theorem State.run_setCell (k : Nat) : (s.setCell n x).run k = s.run k := rfl
@[simp] theorem State.area_setCell (k : Nat) : (s.setCell n x).area k = s.area k := rfl
@[simp] theorem State.slot_setCell (k : Nat) : (s.setCell n x).slot k = s.slot k := rfl
@[simp] theorem State.slice_setCell (k : Nat) : (s.setCell n x).slice k = s.slice k := rfl
@[simp] theorem State.port_setCell (k : Nat) : (s.setCell n x).port k = s.port k := rfl
@[simp] theorem State.peer_setCell (k : Nat) : (s.setCell n x).peer k = s.peer k := rfl
@[simp] theorem State.rx_setCell (k : Nat) : (s.setCell n x).rx k = s.rx k := rfl
@[simp] theorem State.stx_setCell (k : Nat) : (s.setCell n x).stx k = s.stx k := rfl
@[simp] theorem State.stream_setCell (k : Nat) : (s.setCell n x).stream k = s.stream k := rfl
@[simp] theorem State.table_setCell (k : Nat) : (s.setCell n x).table k = s.table k := rfl
@[simp] theorem State.window_setCell (j k : Nat) : (s.setCell n x).window j k = s.window j k := rfl
@[simp] theorem State.cbSlot_setCell (j k : Nat) : (s.setCell n x).cbSlot j k = s.cbSlot j k := rfl
@[simp] theorem State.ctx_setCell (q : Path) : (s.setCell n x).ctx q = s.ctx q := rfl
@[simp] theorem State.byte_setCell (k : Nat) : (s.setCell n x).byte k = s.byte k := rfl
@[simp] theorem State.bytes_setCell (j k : Nat) : (s.setCell n x).bytes j k = s.bytes j k := rfl
@[simp] theorem State.ctr_setCell (j k l : Nat) : (s.setCell n x).ctr j k l = s.ctr j k l := rfl
@[simp] theorem State.entry_setCell (k : Nat) : (s.setCell n x).entry k = s.entry k := rfl
end

/-! ## setWindow -/

section
variable (s : State) (e w : Nat) (x : Window)
@[simp] theorem State.setWindow_windows : (s.setWindow e w x).windows = Tab.set {} s.windows (8 * e + w) x := rfl
@[simp] theorem State.setWindow_pending : (s.setWindow e w x).pending = s.pending := rfl
@[simp] theorem State.setWindow_fresh : (s.setWindow e w x).fresh = s.fresh := rfl
@[simp] theorem State.setWindow_dev : (s.setWindow e w x).dev = s.dev := rfl
@[simp] theorem State.setWindow_ctxs : (s.setWindow e w x).ctxs = s.ctxs := rfl
@[simp] theorem State.setWindow_queues : (s.setWindow e w x).queues = s.queues := rfl
@[simp] theorem State.setWindow_ledger : (s.setWindow e w x).ledger = s.ledger := rfl
@[simp] theorem State.setWindow_mirror : (s.setWindow e w x).mirror = s.mirror := rfl
@[simp] theorem State.setWindow_badP : (s.setWindow e w x).badP = s.badP := rfl
@[simp] theorem State.setWindow_badM : (s.setWindow e w x).badM = s.badM := rfl
@[simp] theorem State.setWindow_jobs : (s.setWindow e w x).jobs = s.jobs := rfl
@[simp] theorem State.setWindow_runs : (s.setWindow e w x).runs = s.runs := rfl
@[simp] theorem State.setWindow_areas : (s.setWindow e w x).areas = s.areas := rfl
@[simp] theorem State.setWindow_cells : (s.setWindow e w x).cells = s.cells := rfl
@[simp] theorem State.setWindow_admitting : (s.setWindow e w x).admitting = s.admitting := rfl
@[simp] theorem State.setWindow_slots : (s.setWindow e w x).slots = s.slots := rfl
@[simp] theorem State.setWindow_slotSeq : (s.setWindow e w x).slotSeq = s.slotSeq := rfl
@[simp] theorem State.setWindow_passSeq : (s.setWindow e w x).passSeq = s.passSeq := rfl
@[simp] theorem State.setWindow_engines : (s.setWindow e w x).engines = s.engines := rfl
@[simp] theorem State.setWindow_slices : (s.setWindow e w x).slices = s.slices := rfl
@[simp] theorem State.setWindow_books : (s.setWindow e w x).books = s.books := rfl
@[simp] theorem State.setWindow_dram : (s.setWindow e w x).dram = s.dram := rfl
@[simp] theorem State.setWindow_ports : (s.setWindow e w x).ports = s.ports := rfl
@[simp] theorem State.setWindow_peers : (s.setWindow e w x).peers = s.peers := rfl
@[simp] theorem State.setWindow_sendRx : (s.setWindow e w x).sendRx = s.sendRx := rfl
@[simp] theorem State.setWindow_sendTx : (s.setWindow e w x).sendTx = s.sendTx := rfl
@[simp] theorem State.setWindow_streams : (s.setWindow e w x).streams = s.streams := rfl
@[simp] theorem State.setWindow_market : (s.setWindow e w x).market = s.market := rfl
@[simp] theorem State.setWindow_tx : (s.setWindow e w x).tx = s.tx := rfl
@[simp] theorem State.setWindow_bell : (s.setWindow e w x).bell = s.bell := rfl
@[simp] theorem State.setWindow_book : (s.setWindow e w x).book = s.book := rfl
@[simp] theorem State.setWindow_pins : (s.setWindow e w x).pins = s.pins := rfl
@[simp] theorem State.setWindow_power : (s.setWindow e w x).power = s.power := rfl
@[simp] theorem State.setWindow_watch : (s.setWindow e w x).watch = s.watch := rfl
@[simp] theorem State.setWindow_sec : (s.setWindow e w x).sec = s.sec := rfl
@[simp] theorem State.setWindow_tables : (s.setWindow e w x).tables = s.tables := rfl
@[simp] theorem State.setWindow_ctrs : (s.setWindow e w x).ctrs = s.ctrs := rfl
@[simp] theorem State.eng_setWindow (k : Nat) : (s.setWindow e w x).eng k = s.eng k := rfl
@[simp] theorem State.queue_setWindow (k : Nat) : (s.setWindow e w x).queue k = s.queue k := rfl
@[simp] theorem State.job_setWindow (k : Nat) : (s.setWindow e w x).job k = s.job k := rfl
@[simp] theorem State.run_setWindow (k : Nat) : (s.setWindow e w x).run k = s.run k := rfl
@[simp] theorem State.area_setWindow (k : Nat) : (s.setWindow e w x).area k = s.area k := rfl
@[simp] theorem State.slot_setWindow (k : Nat) : (s.setWindow e w x).slot k = s.slot k := rfl
@[simp] theorem State.slice_setWindow (k : Nat) : (s.setWindow e w x).slice k = s.slice k := rfl
@[simp] theorem State.port_setWindow (k : Nat) : (s.setWindow e w x).port k = s.port k := rfl
@[simp] theorem State.peer_setWindow (k : Nat) : (s.setWindow e w x).peer k = s.peer k := rfl
@[simp] theorem State.rx_setWindow (k : Nat) : (s.setWindow e w x).rx k = s.rx k := rfl
@[simp] theorem State.stx_setWindow (k : Nat) : (s.setWindow e w x).stx k = s.stx k := rfl
@[simp] theorem State.stream_setWindow (k : Nat) : (s.setWindow e w x).stream k = s.stream k := rfl
@[simp] theorem State.table_setWindow (k : Nat) : (s.setWindow e w x).table k = s.table k := rfl
@[simp] theorem State.cell_setWindow (k : Nat) : (s.setWindow e w x).cell k = s.cell k := rfl
@[simp] theorem State.cbSlot_setWindow (j k : Nat) : (s.setWindow e w x).cbSlot j k = s.cbSlot j k := rfl
@[simp] theorem State.ctx_setWindow (q : Path) : (s.setWindow e w x).ctx q = s.ctx q := rfl
@[simp] theorem State.byte_setWindow (k : Nat) : (s.setWindow e w x).byte k = s.byte k := rfl
@[simp] theorem State.bytes_setWindow (j k : Nat) : (s.setWindow e w x).bytes j k = s.bytes j k := rfl
@[simp] theorem State.ctr_setWindow (j k l : Nat) : (s.setWindow e w x).ctr j k l = s.ctr j k l := rfl
@[simp] theorem State.entry_setWindow (k : Nat) : (s.setWindow e w x).entry k = s.entry k := rfl
end

/-! ## setCbSlot -/

section
variable (s : State) (t i : Nat) (x : CbSlot)
@[simp] theorem State.setCbSlot_books : (s.setCbSlot t i x).books = Tab.set {} s.books (2 * t + i) x := rfl
@[simp] theorem State.setCbSlot_pending : (s.setCbSlot t i x).pending = s.pending := rfl
@[simp] theorem State.setCbSlot_fresh : (s.setCbSlot t i x).fresh = s.fresh := rfl
@[simp] theorem State.setCbSlot_dev : (s.setCbSlot t i x).dev = s.dev := rfl
@[simp] theorem State.setCbSlot_ctxs : (s.setCbSlot t i x).ctxs = s.ctxs := rfl
@[simp] theorem State.setCbSlot_queues : (s.setCbSlot t i x).queues = s.queues := rfl
@[simp] theorem State.setCbSlot_ledger : (s.setCbSlot t i x).ledger = s.ledger := rfl
@[simp] theorem State.setCbSlot_mirror : (s.setCbSlot t i x).mirror = s.mirror := rfl
@[simp] theorem State.setCbSlot_badP : (s.setCbSlot t i x).badP = s.badP := rfl
@[simp] theorem State.setCbSlot_badM : (s.setCbSlot t i x).badM = s.badM := rfl
@[simp] theorem State.setCbSlot_jobs : (s.setCbSlot t i x).jobs = s.jobs := rfl
@[simp] theorem State.setCbSlot_runs : (s.setCbSlot t i x).runs = s.runs := rfl
@[simp] theorem State.setCbSlot_areas : (s.setCbSlot t i x).areas = s.areas := rfl
@[simp] theorem State.setCbSlot_cells : (s.setCbSlot t i x).cells = s.cells := rfl
@[simp] theorem State.setCbSlot_admitting : (s.setCbSlot t i x).admitting = s.admitting := rfl
@[simp] theorem State.setCbSlot_slots : (s.setCbSlot t i x).slots = s.slots := rfl
@[simp] theorem State.setCbSlot_slotSeq : (s.setCbSlot t i x).slotSeq = s.slotSeq := rfl
@[simp] theorem State.setCbSlot_passSeq : (s.setCbSlot t i x).passSeq = s.passSeq := rfl
@[simp] theorem State.setCbSlot_engines : (s.setCbSlot t i x).engines = s.engines := rfl
@[simp] theorem State.setCbSlot_windows : (s.setCbSlot t i x).windows = s.windows := rfl
@[simp] theorem State.setCbSlot_slices : (s.setCbSlot t i x).slices = s.slices := rfl
@[simp] theorem State.setCbSlot_dram : (s.setCbSlot t i x).dram = s.dram := rfl
@[simp] theorem State.setCbSlot_ports : (s.setCbSlot t i x).ports = s.ports := rfl
@[simp] theorem State.setCbSlot_peers : (s.setCbSlot t i x).peers = s.peers := rfl
@[simp] theorem State.setCbSlot_sendRx : (s.setCbSlot t i x).sendRx = s.sendRx := rfl
@[simp] theorem State.setCbSlot_sendTx : (s.setCbSlot t i x).sendTx = s.sendTx := rfl
@[simp] theorem State.setCbSlot_streams : (s.setCbSlot t i x).streams = s.streams := rfl
@[simp] theorem State.setCbSlot_market : (s.setCbSlot t i x).market = s.market := rfl
@[simp] theorem State.setCbSlot_tx : (s.setCbSlot t i x).tx = s.tx := rfl
@[simp] theorem State.setCbSlot_bell : (s.setCbSlot t i x).bell = s.bell := rfl
@[simp] theorem State.setCbSlot_book : (s.setCbSlot t i x).book = s.book := rfl
@[simp] theorem State.setCbSlot_pins : (s.setCbSlot t i x).pins = s.pins := rfl
@[simp] theorem State.setCbSlot_power : (s.setCbSlot t i x).power = s.power := rfl
@[simp] theorem State.setCbSlot_watch : (s.setCbSlot t i x).watch = s.watch := rfl
@[simp] theorem State.setCbSlot_sec : (s.setCbSlot t i x).sec = s.sec := rfl
@[simp] theorem State.setCbSlot_tables : (s.setCbSlot t i x).tables = s.tables := rfl
@[simp] theorem State.setCbSlot_ctrs : (s.setCbSlot t i x).ctrs = s.ctrs := rfl
@[simp] theorem State.eng_setCbSlot (k : Nat) : (s.setCbSlot t i x).eng k = s.eng k := rfl
@[simp] theorem State.queue_setCbSlot (k : Nat) : (s.setCbSlot t i x).queue k = s.queue k := rfl
@[simp] theorem State.job_setCbSlot (k : Nat) : (s.setCbSlot t i x).job k = s.job k := rfl
@[simp] theorem State.run_setCbSlot (k : Nat) : (s.setCbSlot t i x).run k = s.run k := rfl
@[simp] theorem State.area_setCbSlot (k : Nat) : (s.setCbSlot t i x).area k = s.area k := rfl
@[simp] theorem State.slot_setCbSlot (k : Nat) : (s.setCbSlot t i x).slot k = s.slot k := rfl
@[simp] theorem State.slice_setCbSlot (k : Nat) : (s.setCbSlot t i x).slice k = s.slice k := rfl
@[simp] theorem State.port_setCbSlot (k : Nat) : (s.setCbSlot t i x).port k = s.port k := rfl
@[simp] theorem State.peer_setCbSlot (k : Nat) : (s.setCbSlot t i x).peer k = s.peer k := rfl
@[simp] theorem State.rx_setCbSlot (k : Nat) : (s.setCbSlot t i x).rx k = s.rx k := rfl
@[simp] theorem State.stx_setCbSlot (k : Nat) : (s.setCbSlot t i x).stx k = s.stx k := rfl
@[simp] theorem State.stream_setCbSlot (k : Nat) : (s.setCbSlot t i x).stream k = s.stream k := rfl
@[simp] theorem State.table_setCbSlot (k : Nat) : (s.setCbSlot t i x).table k = s.table k := rfl
@[simp] theorem State.cell_setCbSlot (k : Nat) : (s.setCbSlot t i x).cell k = s.cell k := rfl
@[simp] theorem State.window_setCbSlot (j k : Nat) : (s.setCbSlot t i x).window j k = s.window j k := rfl
@[simp] theorem State.ctx_setCbSlot (q : Path) : (s.setCbSlot t i x).ctx q = s.ctx q := rfl
@[simp] theorem State.byte_setCbSlot (k : Nat) : (s.setCbSlot t i x).byte k = s.byte k := rfl
@[simp] theorem State.bytes_setCbSlot (j k : Nat) : (s.setCbSlot t i x).bytes j k = s.bytes j k := rfl
@[simp] theorem State.ctr_setCbSlot (j k l : Nat) : (s.setCbSlot t i x).ctr j k l = s.ctr j k l := rfl
@[simp] theorem State.entry_setCbSlot (k : Nat) : (s.setCbSlot t i x).entry k = s.entry k := rfl
end

/-! ## setCtx -/

section
variable (s : State) (p : Path) (x : Ctx)
@[simp] theorem State.setCtx_ctxs : (s.setCtx p x).ctxs = Tab.set {} s.ctxs (pathCtx p) x := rfl
@[simp] theorem State.setCtx_pending : (s.setCtx p x).pending = s.pending := rfl
@[simp] theorem State.setCtx_fresh : (s.setCtx p x).fresh = s.fresh := rfl
@[simp] theorem State.setCtx_dev : (s.setCtx p x).dev = s.dev := rfl
@[simp] theorem State.setCtx_queues : (s.setCtx p x).queues = s.queues := rfl
@[simp] theorem State.setCtx_ledger : (s.setCtx p x).ledger = s.ledger := rfl
@[simp] theorem State.setCtx_mirror : (s.setCtx p x).mirror = s.mirror := rfl
@[simp] theorem State.setCtx_badP : (s.setCtx p x).badP = s.badP := rfl
@[simp] theorem State.setCtx_badM : (s.setCtx p x).badM = s.badM := rfl
@[simp] theorem State.setCtx_jobs : (s.setCtx p x).jobs = s.jobs := rfl
@[simp] theorem State.setCtx_runs : (s.setCtx p x).runs = s.runs := rfl
@[simp] theorem State.setCtx_areas : (s.setCtx p x).areas = s.areas := rfl
@[simp] theorem State.setCtx_cells : (s.setCtx p x).cells = s.cells := rfl
@[simp] theorem State.setCtx_admitting : (s.setCtx p x).admitting = s.admitting := rfl
@[simp] theorem State.setCtx_slots : (s.setCtx p x).slots = s.slots := rfl
@[simp] theorem State.setCtx_slotSeq : (s.setCtx p x).slotSeq = s.slotSeq := rfl
@[simp] theorem State.setCtx_passSeq : (s.setCtx p x).passSeq = s.passSeq := rfl
@[simp] theorem State.setCtx_engines : (s.setCtx p x).engines = s.engines := rfl
@[simp] theorem State.setCtx_windows : (s.setCtx p x).windows = s.windows := rfl
@[simp] theorem State.setCtx_slices : (s.setCtx p x).slices = s.slices := rfl
@[simp] theorem State.setCtx_books : (s.setCtx p x).books = s.books := rfl
@[simp] theorem State.setCtx_dram : (s.setCtx p x).dram = s.dram := rfl
@[simp] theorem State.setCtx_ports : (s.setCtx p x).ports = s.ports := rfl
@[simp] theorem State.setCtx_peers : (s.setCtx p x).peers = s.peers := rfl
@[simp] theorem State.setCtx_sendRx : (s.setCtx p x).sendRx = s.sendRx := rfl
@[simp] theorem State.setCtx_sendTx : (s.setCtx p x).sendTx = s.sendTx := rfl
@[simp] theorem State.setCtx_streams : (s.setCtx p x).streams = s.streams := rfl
@[simp] theorem State.setCtx_market : (s.setCtx p x).market = s.market := rfl
@[simp] theorem State.setCtx_tx : (s.setCtx p x).tx = s.tx := rfl
@[simp] theorem State.setCtx_bell : (s.setCtx p x).bell = s.bell := rfl
@[simp] theorem State.setCtx_book : (s.setCtx p x).book = s.book := rfl
@[simp] theorem State.setCtx_pins : (s.setCtx p x).pins = s.pins := rfl
@[simp] theorem State.setCtx_power : (s.setCtx p x).power = s.power := rfl
@[simp] theorem State.setCtx_watch : (s.setCtx p x).watch = s.watch := rfl
@[simp] theorem State.setCtx_sec : (s.setCtx p x).sec = s.sec := rfl
@[simp] theorem State.setCtx_tables : (s.setCtx p x).tables = s.tables := rfl
@[simp] theorem State.setCtx_ctrs : (s.setCtx p x).ctrs = s.ctrs := rfl
@[simp] theorem State.eng_setCtx (k : Nat) : (s.setCtx p x).eng k = s.eng k := rfl
@[simp] theorem State.queue_setCtx (k : Nat) : (s.setCtx p x).queue k = s.queue k := rfl
@[simp] theorem State.job_setCtx (k : Nat) : (s.setCtx p x).job k = s.job k := rfl
@[simp] theorem State.run_setCtx (k : Nat) : (s.setCtx p x).run k = s.run k := rfl
@[simp] theorem State.area_setCtx (k : Nat) : (s.setCtx p x).area k = s.area k := rfl
@[simp] theorem State.slot_setCtx (k : Nat) : (s.setCtx p x).slot k = s.slot k := rfl
@[simp] theorem State.slice_setCtx (k : Nat) : (s.setCtx p x).slice k = s.slice k := rfl
@[simp] theorem State.port_setCtx (k : Nat) : (s.setCtx p x).port k = s.port k := rfl
@[simp] theorem State.peer_setCtx (k : Nat) : (s.setCtx p x).peer k = s.peer k := rfl
@[simp] theorem State.rx_setCtx (k : Nat) : (s.setCtx p x).rx k = s.rx k := rfl
@[simp] theorem State.stx_setCtx (k : Nat) : (s.setCtx p x).stx k = s.stx k := rfl
@[simp] theorem State.stream_setCtx (k : Nat) : (s.setCtx p x).stream k = s.stream k := rfl
@[simp] theorem State.table_setCtx (k : Nat) : (s.setCtx p x).table k = s.table k := rfl
@[simp] theorem State.cell_setCtx (k : Nat) : (s.setCtx p x).cell k = s.cell k := rfl
@[simp] theorem State.window_setCtx (j k : Nat) : (s.setCtx p x).window j k = s.window j k := rfl
@[simp] theorem State.cbSlot_setCtx (j k : Nat) : (s.setCtx p x).cbSlot j k = s.cbSlot j k := rfl
@[simp] theorem State.byte_setCtx (k : Nat) : (s.setCtx p x).byte k = s.byte k := rfl
@[simp] theorem State.bytes_setCtx (j k : Nat) : (s.setCtx p x).bytes j k = s.bytes j k := rfl
@[simp] theorem State.ctr_setCtx (j k l : Nat) : (s.setCtx p x).ctr j k l = s.ctr j k l := rfl
@[simp] theorem State.entry_setCtx (k : Nat) : (s.setCtx p x).entry k = s.entry k := rfl
end

/-! ## modDev -/

section
variable (s : State) (f : Dev → Dev)
@[simp] theorem State.modDev_dev : (s.modDev f).dev = f s.dev := rfl
@[simp] theorem State.modDev_pending : (s.modDev f).pending = s.pending := rfl
@[simp] theorem State.modDev_fresh : (s.modDev f).fresh = s.fresh := rfl
@[simp] theorem State.modDev_ctxs : (s.modDev f).ctxs = s.ctxs := rfl
@[simp] theorem State.modDev_queues : (s.modDev f).queues = s.queues := rfl
@[simp] theorem State.modDev_ledger : (s.modDev f).ledger = s.ledger := rfl
@[simp] theorem State.modDev_mirror : (s.modDev f).mirror = s.mirror := rfl
@[simp] theorem State.modDev_badP : (s.modDev f).badP = s.badP := rfl
@[simp] theorem State.modDev_badM : (s.modDev f).badM = s.badM := rfl
@[simp] theorem State.modDev_jobs : (s.modDev f).jobs = s.jobs := rfl
@[simp] theorem State.modDev_runs : (s.modDev f).runs = s.runs := rfl
@[simp] theorem State.modDev_areas : (s.modDev f).areas = s.areas := rfl
@[simp] theorem State.modDev_cells : (s.modDev f).cells = s.cells := rfl
@[simp] theorem State.modDev_admitting : (s.modDev f).admitting = s.admitting := rfl
@[simp] theorem State.modDev_slots : (s.modDev f).slots = s.slots := rfl
@[simp] theorem State.modDev_slotSeq : (s.modDev f).slotSeq = s.slotSeq := rfl
@[simp] theorem State.modDev_passSeq : (s.modDev f).passSeq = s.passSeq := rfl
@[simp] theorem State.modDev_engines : (s.modDev f).engines = s.engines := rfl
@[simp] theorem State.modDev_windows : (s.modDev f).windows = s.windows := rfl
@[simp] theorem State.modDev_slices : (s.modDev f).slices = s.slices := rfl
@[simp] theorem State.modDev_books : (s.modDev f).books = s.books := rfl
@[simp] theorem State.modDev_dram : (s.modDev f).dram = s.dram := rfl
@[simp] theorem State.modDev_ports : (s.modDev f).ports = s.ports := rfl
@[simp] theorem State.modDev_peers : (s.modDev f).peers = s.peers := rfl
@[simp] theorem State.modDev_sendRx : (s.modDev f).sendRx = s.sendRx := rfl
@[simp] theorem State.modDev_sendTx : (s.modDev f).sendTx = s.sendTx := rfl
@[simp] theorem State.modDev_streams : (s.modDev f).streams = s.streams := rfl
@[simp] theorem State.modDev_market : (s.modDev f).market = s.market := rfl
@[simp] theorem State.modDev_tx : (s.modDev f).tx = s.tx := rfl
@[simp] theorem State.modDev_bell : (s.modDev f).bell = s.bell := rfl
@[simp] theorem State.modDev_book : (s.modDev f).book = s.book := rfl
@[simp] theorem State.modDev_pins : (s.modDev f).pins = s.pins := rfl
@[simp] theorem State.modDev_power : (s.modDev f).power = s.power := rfl
@[simp] theorem State.modDev_watch : (s.modDev f).watch = s.watch := rfl
@[simp] theorem State.modDev_sec : (s.modDev f).sec = s.sec := rfl
@[simp] theorem State.modDev_tables : (s.modDev f).tables = s.tables := rfl
@[simp] theorem State.modDev_ctrs : (s.modDev f).ctrs = s.ctrs := rfl
@[simp] theorem State.eng_modDev (k : Nat) : (s.modDev f).eng k = s.eng k := rfl
@[simp] theorem State.queue_modDev (k : Nat) : (s.modDev f).queue k = s.queue k := rfl
@[simp] theorem State.job_modDev (k : Nat) : (s.modDev f).job k = s.job k := rfl
@[simp] theorem State.run_modDev (k : Nat) : (s.modDev f).run k = s.run k := rfl
@[simp] theorem State.area_modDev (k : Nat) : (s.modDev f).area k = s.area k := rfl
@[simp] theorem State.slot_modDev (k : Nat) : (s.modDev f).slot k = s.slot k := rfl
@[simp] theorem State.slice_modDev (k : Nat) : (s.modDev f).slice k = s.slice k := rfl
@[simp] theorem State.port_modDev (k : Nat) : (s.modDev f).port k = s.port k := rfl
@[simp] theorem State.peer_modDev (k : Nat) : (s.modDev f).peer k = s.peer k := rfl
@[simp] theorem State.rx_modDev (k : Nat) : (s.modDev f).rx k = s.rx k := rfl
@[simp] theorem State.stx_modDev (k : Nat) : (s.modDev f).stx k = s.stx k := rfl
@[simp] theorem State.stream_modDev (k : Nat) : (s.modDev f).stream k = s.stream k := rfl
@[simp] theorem State.table_modDev (k : Nat) : (s.modDev f).table k = s.table k := rfl
@[simp] theorem State.cell_modDev (k : Nat) : (s.modDev f).cell k = s.cell k := rfl
@[simp] theorem State.window_modDev (j k : Nat) : (s.modDev f).window j k = s.window j k := rfl
@[simp] theorem State.cbSlot_modDev (j k : Nat) : (s.modDev f).cbSlot j k = s.cbSlot j k := rfl
@[simp] theorem State.ctx_modDev (q : Path) : (s.modDev f).ctx q = s.ctx q := rfl
@[simp] theorem State.byte_modDev (k : Nat) : (s.modDev f).byte k = s.byte k := rfl
@[simp] theorem State.bytes_modDev (j k : Nat) : (s.modDev f).bytes j k = s.bytes j k := rfl
@[simp] theorem State.ctr_modDev (j k l : Nat) : (s.modDev f).ctr j k l = s.ctr j k l := rfl
@[simp] theorem State.entry_modDev (k : Nat) : (s.modDev f).entry k = s.entry k := rfl
end

/-! ## modBell -/

section
variable (s : State) (f : Bell → Bell)
@[simp] theorem State.modBell_bell : (s.modBell f).bell = f s.bell := rfl
@[simp] theorem State.modBell_pending : (s.modBell f).pending = s.pending := rfl
@[simp] theorem State.modBell_fresh : (s.modBell f).fresh = s.fresh := rfl
@[simp] theorem State.modBell_dev : (s.modBell f).dev = s.dev := rfl
@[simp] theorem State.modBell_ctxs : (s.modBell f).ctxs = s.ctxs := rfl
@[simp] theorem State.modBell_queues : (s.modBell f).queues = s.queues := rfl
@[simp] theorem State.modBell_ledger : (s.modBell f).ledger = s.ledger := rfl
@[simp] theorem State.modBell_mirror : (s.modBell f).mirror = s.mirror := rfl
@[simp] theorem State.modBell_badP : (s.modBell f).badP = s.badP := rfl
@[simp] theorem State.modBell_badM : (s.modBell f).badM = s.badM := rfl
@[simp] theorem State.modBell_jobs : (s.modBell f).jobs = s.jobs := rfl
@[simp] theorem State.modBell_runs : (s.modBell f).runs = s.runs := rfl
@[simp] theorem State.modBell_areas : (s.modBell f).areas = s.areas := rfl
@[simp] theorem State.modBell_cells : (s.modBell f).cells = s.cells := rfl
@[simp] theorem State.modBell_admitting : (s.modBell f).admitting = s.admitting := rfl
@[simp] theorem State.modBell_slots : (s.modBell f).slots = s.slots := rfl
@[simp] theorem State.modBell_slotSeq : (s.modBell f).slotSeq = s.slotSeq := rfl
@[simp] theorem State.modBell_passSeq : (s.modBell f).passSeq = s.passSeq := rfl
@[simp] theorem State.modBell_engines : (s.modBell f).engines = s.engines := rfl
@[simp] theorem State.modBell_windows : (s.modBell f).windows = s.windows := rfl
@[simp] theorem State.modBell_slices : (s.modBell f).slices = s.slices := rfl
@[simp] theorem State.modBell_books : (s.modBell f).books = s.books := rfl
@[simp] theorem State.modBell_dram : (s.modBell f).dram = s.dram := rfl
@[simp] theorem State.modBell_ports : (s.modBell f).ports = s.ports := rfl
@[simp] theorem State.modBell_peers : (s.modBell f).peers = s.peers := rfl
@[simp] theorem State.modBell_sendRx : (s.modBell f).sendRx = s.sendRx := rfl
@[simp] theorem State.modBell_sendTx : (s.modBell f).sendTx = s.sendTx := rfl
@[simp] theorem State.modBell_streams : (s.modBell f).streams = s.streams := rfl
@[simp] theorem State.modBell_market : (s.modBell f).market = s.market := rfl
@[simp] theorem State.modBell_tx : (s.modBell f).tx = s.tx := rfl
@[simp] theorem State.modBell_book : (s.modBell f).book = s.book := rfl
@[simp] theorem State.modBell_pins : (s.modBell f).pins = s.pins := rfl
@[simp] theorem State.modBell_power : (s.modBell f).power = s.power := rfl
@[simp] theorem State.modBell_watch : (s.modBell f).watch = s.watch := rfl
@[simp] theorem State.modBell_sec : (s.modBell f).sec = s.sec := rfl
@[simp] theorem State.modBell_tables : (s.modBell f).tables = s.tables := rfl
@[simp] theorem State.modBell_ctrs : (s.modBell f).ctrs = s.ctrs := rfl
@[simp] theorem State.eng_modBell (k : Nat) : (s.modBell f).eng k = s.eng k := rfl
@[simp] theorem State.queue_modBell (k : Nat) : (s.modBell f).queue k = s.queue k := rfl
@[simp] theorem State.job_modBell (k : Nat) : (s.modBell f).job k = s.job k := rfl
@[simp] theorem State.run_modBell (k : Nat) : (s.modBell f).run k = s.run k := rfl
@[simp] theorem State.area_modBell (k : Nat) : (s.modBell f).area k = s.area k := rfl
@[simp] theorem State.slot_modBell (k : Nat) : (s.modBell f).slot k = s.slot k := rfl
@[simp] theorem State.slice_modBell (k : Nat) : (s.modBell f).slice k = s.slice k := rfl
@[simp] theorem State.port_modBell (k : Nat) : (s.modBell f).port k = s.port k := rfl
@[simp] theorem State.peer_modBell (k : Nat) : (s.modBell f).peer k = s.peer k := rfl
@[simp] theorem State.rx_modBell (k : Nat) : (s.modBell f).rx k = s.rx k := rfl
@[simp] theorem State.stx_modBell (k : Nat) : (s.modBell f).stx k = s.stx k := rfl
@[simp] theorem State.stream_modBell (k : Nat) : (s.modBell f).stream k = s.stream k := rfl
@[simp] theorem State.table_modBell (k : Nat) : (s.modBell f).table k = s.table k := rfl
@[simp] theorem State.cell_modBell (k : Nat) : (s.modBell f).cell k = s.cell k := rfl
@[simp] theorem State.window_modBell (j k : Nat) : (s.modBell f).window j k = s.window j k := rfl
@[simp] theorem State.cbSlot_modBell (j k : Nat) : (s.modBell f).cbSlot j k = s.cbSlot j k := rfl
@[simp] theorem State.ctx_modBell (q : Path) : (s.modBell f).ctx q = s.ctx q := rfl
@[simp] theorem State.byte_modBell (k : Nat) : (s.modBell f).byte k = s.byte k := rfl
@[simp] theorem State.bytes_modBell (j k : Nat) : (s.modBell f).bytes j k = s.bytes j k := rfl
@[simp] theorem State.ctr_modBell (j k l : Nat) : (s.modBell f).ctr j k l = s.ctr j k l := rfl
@[simp] theorem State.entry_modBell (k : Nat) : (s.modBell f).entry k = s.entry k := rfl
end

/-! ## modBook -/

section
variable (s : State) (f : Book → Book)
@[simp] theorem State.modBook_book : (s.modBook f).book = f s.book := rfl
@[simp] theorem State.modBook_pending : (s.modBook f).pending = s.pending := rfl
@[simp] theorem State.modBook_fresh : (s.modBook f).fresh = s.fresh := rfl
@[simp] theorem State.modBook_dev : (s.modBook f).dev = s.dev := rfl
@[simp] theorem State.modBook_ctxs : (s.modBook f).ctxs = s.ctxs := rfl
@[simp] theorem State.modBook_queues : (s.modBook f).queues = s.queues := rfl
@[simp] theorem State.modBook_ledger : (s.modBook f).ledger = s.ledger := rfl
@[simp] theorem State.modBook_mirror : (s.modBook f).mirror = s.mirror := rfl
@[simp] theorem State.modBook_badP : (s.modBook f).badP = s.badP := rfl
@[simp] theorem State.modBook_badM : (s.modBook f).badM = s.badM := rfl
@[simp] theorem State.modBook_jobs : (s.modBook f).jobs = s.jobs := rfl
@[simp] theorem State.modBook_runs : (s.modBook f).runs = s.runs := rfl
@[simp] theorem State.modBook_areas : (s.modBook f).areas = s.areas := rfl
@[simp] theorem State.modBook_cells : (s.modBook f).cells = s.cells := rfl
@[simp] theorem State.modBook_admitting : (s.modBook f).admitting = s.admitting := rfl
@[simp] theorem State.modBook_slots : (s.modBook f).slots = s.slots := rfl
@[simp] theorem State.modBook_slotSeq : (s.modBook f).slotSeq = s.slotSeq := rfl
@[simp] theorem State.modBook_passSeq : (s.modBook f).passSeq = s.passSeq := rfl
@[simp] theorem State.modBook_engines : (s.modBook f).engines = s.engines := rfl
@[simp] theorem State.modBook_windows : (s.modBook f).windows = s.windows := rfl
@[simp] theorem State.modBook_slices : (s.modBook f).slices = s.slices := rfl
@[simp] theorem State.modBook_books : (s.modBook f).books = s.books := rfl
@[simp] theorem State.modBook_dram : (s.modBook f).dram = s.dram := rfl
@[simp] theorem State.modBook_ports : (s.modBook f).ports = s.ports := rfl
@[simp] theorem State.modBook_peers : (s.modBook f).peers = s.peers := rfl
@[simp] theorem State.modBook_sendRx : (s.modBook f).sendRx = s.sendRx := rfl
@[simp] theorem State.modBook_sendTx : (s.modBook f).sendTx = s.sendTx := rfl
@[simp] theorem State.modBook_streams : (s.modBook f).streams = s.streams := rfl
@[simp] theorem State.modBook_market : (s.modBook f).market = s.market := rfl
@[simp] theorem State.modBook_tx : (s.modBook f).tx = s.tx := rfl
@[simp] theorem State.modBook_bell : (s.modBook f).bell = s.bell := rfl
@[simp] theorem State.modBook_pins : (s.modBook f).pins = s.pins := rfl
@[simp] theorem State.modBook_power : (s.modBook f).power = s.power := rfl
@[simp] theorem State.modBook_watch : (s.modBook f).watch = s.watch := rfl
@[simp] theorem State.modBook_sec : (s.modBook f).sec = s.sec := rfl
@[simp] theorem State.modBook_tables : (s.modBook f).tables = s.tables := rfl
@[simp] theorem State.modBook_ctrs : (s.modBook f).ctrs = s.ctrs := rfl
@[simp] theorem State.eng_modBook (k : Nat) : (s.modBook f).eng k = s.eng k := rfl
@[simp] theorem State.queue_modBook (k : Nat) : (s.modBook f).queue k = s.queue k := rfl
@[simp] theorem State.job_modBook (k : Nat) : (s.modBook f).job k = s.job k := rfl
@[simp] theorem State.run_modBook (k : Nat) : (s.modBook f).run k = s.run k := rfl
@[simp] theorem State.area_modBook (k : Nat) : (s.modBook f).area k = s.area k := rfl
@[simp] theorem State.slot_modBook (k : Nat) : (s.modBook f).slot k = s.slot k := rfl
@[simp] theorem State.slice_modBook (k : Nat) : (s.modBook f).slice k = s.slice k := rfl
@[simp] theorem State.port_modBook (k : Nat) : (s.modBook f).port k = s.port k := rfl
@[simp] theorem State.peer_modBook (k : Nat) : (s.modBook f).peer k = s.peer k := rfl
@[simp] theorem State.rx_modBook (k : Nat) : (s.modBook f).rx k = s.rx k := rfl
@[simp] theorem State.stx_modBook (k : Nat) : (s.modBook f).stx k = s.stx k := rfl
@[simp] theorem State.stream_modBook (k : Nat) : (s.modBook f).stream k = s.stream k := rfl
@[simp] theorem State.table_modBook (k : Nat) : (s.modBook f).table k = s.table k := rfl
@[simp] theorem State.cell_modBook (k : Nat) : (s.modBook f).cell k = s.cell k := rfl
@[simp] theorem State.window_modBook (j k : Nat) : (s.modBook f).window j k = s.window j k := rfl
@[simp] theorem State.cbSlot_modBook (j k : Nat) : (s.modBook f).cbSlot j k = s.cbSlot j k := rfl
@[simp] theorem State.ctx_modBook (q : Path) : (s.modBook f).ctx q = s.ctx q := rfl
@[simp] theorem State.byte_modBook (k : Nat) : (s.modBook f).byte k = s.byte k := rfl
@[simp] theorem State.bytes_modBook (j k : Nat) : (s.modBook f).bytes j k = s.bytes j k := rfl
@[simp] theorem State.ctr_modBook (j k l : Nat) : (s.modBook f).ctr j k l = s.ctr j k l := rfl
@[simp] theorem State.entry_modBook (k : Nat) : (s.modBook f).entry k = s.entry k := rfl
end

/-! ## modPower -/

section
variable (s : State) (f : Power → Power)
@[simp] theorem State.modPower_power : (s.modPower f).power = f s.power := rfl
@[simp] theorem State.modPower_pending : (s.modPower f).pending = s.pending := rfl
@[simp] theorem State.modPower_fresh : (s.modPower f).fresh = s.fresh := rfl
@[simp] theorem State.modPower_dev : (s.modPower f).dev = s.dev := rfl
@[simp] theorem State.modPower_ctxs : (s.modPower f).ctxs = s.ctxs := rfl
@[simp] theorem State.modPower_queues : (s.modPower f).queues = s.queues := rfl
@[simp] theorem State.modPower_ledger : (s.modPower f).ledger = s.ledger := rfl
@[simp] theorem State.modPower_mirror : (s.modPower f).mirror = s.mirror := rfl
@[simp] theorem State.modPower_badP : (s.modPower f).badP = s.badP := rfl
@[simp] theorem State.modPower_badM : (s.modPower f).badM = s.badM := rfl
@[simp] theorem State.modPower_jobs : (s.modPower f).jobs = s.jobs := rfl
@[simp] theorem State.modPower_runs : (s.modPower f).runs = s.runs := rfl
@[simp] theorem State.modPower_areas : (s.modPower f).areas = s.areas := rfl
@[simp] theorem State.modPower_cells : (s.modPower f).cells = s.cells := rfl
@[simp] theorem State.modPower_admitting : (s.modPower f).admitting = s.admitting := rfl
@[simp] theorem State.modPower_slots : (s.modPower f).slots = s.slots := rfl
@[simp] theorem State.modPower_slotSeq : (s.modPower f).slotSeq = s.slotSeq := rfl
@[simp] theorem State.modPower_passSeq : (s.modPower f).passSeq = s.passSeq := rfl
@[simp] theorem State.modPower_engines : (s.modPower f).engines = s.engines := rfl
@[simp] theorem State.modPower_windows : (s.modPower f).windows = s.windows := rfl
@[simp] theorem State.modPower_slices : (s.modPower f).slices = s.slices := rfl
@[simp] theorem State.modPower_books : (s.modPower f).books = s.books := rfl
@[simp] theorem State.modPower_dram : (s.modPower f).dram = s.dram := rfl
@[simp] theorem State.modPower_ports : (s.modPower f).ports = s.ports := rfl
@[simp] theorem State.modPower_peers : (s.modPower f).peers = s.peers := rfl
@[simp] theorem State.modPower_sendRx : (s.modPower f).sendRx = s.sendRx := rfl
@[simp] theorem State.modPower_sendTx : (s.modPower f).sendTx = s.sendTx := rfl
@[simp] theorem State.modPower_streams : (s.modPower f).streams = s.streams := rfl
@[simp] theorem State.modPower_market : (s.modPower f).market = s.market := rfl
@[simp] theorem State.modPower_tx : (s.modPower f).tx = s.tx := rfl
@[simp] theorem State.modPower_bell : (s.modPower f).bell = s.bell := rfl
@[simp] theorem State.modPower_book : (s.modPower f).book = s.book := rfl
@[simp] theorem State.modPower_pins : (s.modPower f).pins = s.pins := rfl
@[simp] theorem State.modPower_watch : (s.modPower f).watch = s.watch := rfl
@[simp] theorem State.modPower_sec : (s.modPower f).sec = s.sec := rfl
@[simp] theorem State.modPower_tables : (s.modPower f).tables = s.tables := rfl
@[simp] theorem State.modPower_ctrs : (s.modPower f).ctrs = s.ctrs := rfl
@[simp] theorem State.eng_modPower (k : Nat) : (s.modPower f).eng k = s.eng k := rfl
@[simp] theorem State.queue_modPower (k : Nat) : (s.modPower f).queue k = s.queue k := rfl
@[simp] theorem State.job_modPower (k : Nat) : (s.modPower f).job k = s.job k := rfl
@[simp] theorem State.run_modPower (k : Nat) : (s.modPower f).run k = s.run k := rfl
@[simp] theorem State.area_modPower (k : Nat) : (s.modPower f).area k = s.area k := rfl
@[simp] theorem State.slot_modPower (k : Nat) : (s.modPower f).slot k = s.slot k := rfl
@[simp] theorem State.slice_modPower (k : Nat) : (s.modPower f).slice k = s.slice k := rfl
@[simp] theorem State.port_modPower (k : Nat) : (s.modPower f).port k = s.port k := rfl
@[simp] theorem State.peer_modPower (k : Nat) : (s.modPower f).peer k = s.peer k := rfl
@[simp] theorem State.rx_modPower (k : Nat) : (s.modPower f).rx k = s.rx k := rfl
@[simp] theorem State.stx_modPower (k : Nat) : (s.modPower f).stx k = s.stx k := rfl
@[simp] theorem State.stream_modPower (k : Nat) : (s.modPower f).stream k = s.stream k := rfl
@[simp] theorem State.table_modPower (k : Nat) : (s.modPower f).table k = s.table k := rfl
@[simp] theorem State.cell_modPower (k : Nat) : (s.modPower f).cell k = s.cell k := rfl
@[simp] theorem State.window_modPower (j k : Nat) : (s.modPower f).window j k = s.window j k := rfl
@[simp] theorem State.cbSlot_modPower (j k : Nat) : (s.modPower f).cbSlot j k = s.cbSlot j k := rfl
@[simp] theorem State.ctx_modPower (q : Path) : (s.modPower f).ctx q = s.ctx q := rfl
@[simp] theorem State.byte_modPower (k : Nat) : (s.modPower f).byte k = s.byte k := rfl
@[simp] theorem State.bytes_modPower (j k : Nat) : (s.modPower f).bytes j k = s.bytes j k := rfl
@[simp] theorem State.ctr_modPower (j k l : Nat) : (s.modPower f).ctr j k l = s.ctr j k l := rfl
@[simp] theorem State.entry_modPower (k : Nat) : (s.modPower f).entry k = s.entry k := rfl
end

/-! ## modWatch -/

section
variable (s : State) (f : Watch → Watch)
@[simp] theorem State.modWatch_watch : (s.modWatch f).watch = f s.watch := rfl
@[simp] theorem State.modWatch_pending : (s.modWatch f).pending = s.pending := rfl
@[simp] theorem State.modWatch_fresh : (s.modWatch f).fresh = s.fresh := rfl
@[simp] theorem State.modWatch_dev : (s.modWatch f).dev = s.dev := rfl
@[simp] theorem State.modWatch_ctxs : (s.modWatch f).ctxs = s.ctxs := rfl
@[simp] theorem State.modWatch_queues : (s.modWatch f).queues = s.queues := rfl
@[simp] theorem State.modWatch_ledger : (s.modWatch f).ledger = s.ledger := rfl
@[simp] theorem State.modWatch_mirror : (s.modWatch f).mirror = s.mirror := rfl
@[simp] theorem State.modWatch_badP : (s.modWatch f).badP = s.badP := rfl
@[simp] theorem State.modWatch_badM : (s.modWatch f).badM = s.badM := rfl
@[simp] theorem State.modWatch_jobs : (s.modWatch f).jobs = s.jobs := rfl
@[simp] theorem State.modWatch_runs : (s.modWatch f).runs = s.runs := rfl
@[simp] theorem State.modWatch_areas : (s.modWatch f).areas = s.areas := rfl
@[simp] theorem State.modWatch_cells : (s.modWatch f).cells = s.cells := rfl
@[simp] theorem State.modWatch_admitting : (s.modWatch f).admitting = s.admitting := rfl
@[simp] theorem State.modWatch_slots : (s.modWatch f).slots = s.slots := rfl
@[simp] theorem State.modWatch_slotSeq : (s.modWatch f).slotSeq = s.slotSeq := rfl
@[simp] theorem State.modWatch_passSeq : (s.modWatch f).passSeq = s.passSeq := rfl
@[simp] theorem State.modWatch_engines : (s.modWatch f).engines = s.engines := rfl
@[simp] theorem State.modWatch_windows : (s.modWatch f).windows = s.windows := rfl
@[simp] theorem State.modWatch_slices : (s.modWatch f).slices = s.slices := rfl
@[simp] theorem State.modWatch_books : (s.modWatch f).books = s.books := rfl
@[simp] theorem State.modWatch_dram : (s.modWatch f).dram = s.dram := rfl
@[simp] theorem State.modWatch_ports : (s.modWatch f).ports = s.ports := rfl
@[simp] theorem State.modWatch_peers : (s.modWatch f).peers = s.peers := rfl
@[simp] theorem State.modWatch_sendRx : (s.modWatch f).sendRx = s.sendRx := rfl
@[simp] theorem State.modWatch_sendTx : (s.modWatch f).sendTx = s.sendTx := rfl
@[simp] theorem State.modWatch_streams : (s.modWatch f).streams = s.streams := rfl
@[simp] theorem State.modWatch_market : (s.modWatch f).market = s.market := rfl
@[simp] theorem State.modWatch_tx : (s.modWatch f).tx = s.tx := rfl
@[simp] theorem State.modWatch_bell : (s.modWatch f).bell = s.bell := rfl
@[simp] theorem State.modWatch_book : (s.modWatch f).book = s.book := rfl
@[simp] theorem State.modWatch_pins : (s.modWatch f).pins = s.pins := rfl
@[simp] theorem State.modWatch_power : (s.modWatch f).power = s.power := rfl
@[simp] theorem State.modWatch_sec : (s.modWatch f).sec = s.sec := rfl
@[simp] theorem State.modWatch_tables : (s.modWatch f).tables = s.tables := rfl
@[simp] theorem State.modWatch_ctrs : (s.modWatch f).ctrs = s.ctrs := rfl
@[simp] theorem State.eng_modWatch (k : Nat) : (s.modWatch f).eng k = s.eng k := rfl
@[simp] theorem State.queue_modWatch (k : Nat) : (s.modWatch f).queue k = s.queue k := rfl
@[simp] theorem State.job_modWatch (k : Nat) : (s.modWatch f).job k = s.job k := rfl
@[simp] theorem State.run_modWatch (k : Nat) : (s.modWatch f).run k = s.run k := rfl
@[simp] theorem State.area_modWatch (k : Nat) : (s.modWatch f).area k = s.area k := rfl
@[simp] theorem State.slot_modWatch (k : Nat) : (s.modWatch f).slot k = s.slot k := rfl
@[simp] theorem State.slice_modWatch (k : Nat) : (s.modWatch f).slice k = s.slice k := rfl
@[simp] theorem State.port_modWatch (k : Nat) : (s.modWatch f).port k = s.port k := rfl
@[simp] theorem State.peer_modWatch (k : Nat) : (s.modWatch f).peer k = s.peer k := rfl
@[simp] theorem State.rx_modWatch (k : Nat) : (s.modWatch f).rx k = s.rx k := rfl
@[simp] theorem State.stx_modWatch (k : Nat) : (s.modWatch f).stx k = s.stx k := rfl
@[simp] theorem State.stream_modWatch (k : Nat) : (s.modWatch f).stream k = s.stream k := rfl
@[simp] theorem State.table_modWatch (k : Nat) : (s.modWatch f).table k = s.table k := rfl
@[simp] theorem State.cell_modWatch (k : Nat) : (s.modWatch f).cell k = s.cell k := rfl
@[simp] theorem State.window_modWatch (j k : Nat) : (s.modWatch f).window j k = s.window j k := rfl
@[simp] theorem State.cbSlot_modWatch (j k : Nat) : (s.modWatch f).cbSlot j k = s.cbSlot j k := rfl
@[simp] theorem State.ctx_modWatch (q : Path) : (s.modWatch f).ctx q = s.ctx q := rfl
@[simp] theorem State.byte_modWatch (k : Nat) : (s.modWatch f).byte k = s.byte k := rfl
@[simp] theorem State.bytes_modWatch (j k : Nat) : (s.modWatch f).bytes j k = s.bytes j k := rfl
@[simp] theorem State.ctr_modWatch (j k l : Nat) : (s.modWatch f).ctr j k l = s.ctr j k l := rfl
@[simp] theorem State.entry_modWatch (k : Nat) : (s.modWatch f).entry k = s.entry k := rfl
end

/-! ## modSec -/

section
variable (s : State) (f : Sec → Sec)
@[simp] theorem State.modSec_sec : (s.modSec f).sec = f s.sec := rfl
@[simp] theorem State.modSec_pending : (s.modSec f).pending = s.pending := rfl
@[simp] theorem State.modSec_fresh : (s.modSec f).fresh = s.fresh := rfl
@[simp] theorem State.modSec_dev : (s.modSec f).dev = s.dev := rfl
@[simp] theorem State.modSec_ctxs : (s.modSec f).ctxs = s.ctxs := rfl
@[simp] theorem State.modSec_queues : (s.modSec f).queues = s.queues := rfl
@[simp] theorem State.modSec_ledger : (s.modSec f).ledger = s.ledger := rfl
@[simp] theorem State.modSec_mirror : (s.modSec f).mirror = s.mirror := rfl
@[simp] theorem State.modSec_badP : (s.modSec f).badP = s.badP := rfl
@[simp] theorem State.modSec_badM : (s.modSec f).badM = s.badM := rfl
@[simp] theorem State.modSec_jobs : (s.modSec f).jobs = s.jobs := rfl
@[simp] theorem State.modSec_runs : (s.modSec f).runs = s.runs := rfl
@[simp] theorem State.modSec_areas : (s.modSec f).areas = s.areas := rfl
@[simp] theorem State.modSec_cells : (s.modSec f).cells = s.cells := rfl
@[simp] theorem State.modSec_admitting : (s.modSec f).admitting = s.admitting := rfl
@[simp] theorem State.modSec_slots : (s.modSec f).slots = s.slots := rfl
@[simp] theorem State.modSec_slotSeq : (s.modSec f).slotSeq = s.slotSeq := rfl
@[simp] theorem State.modSec_passSeq : (s.modSec f).passSeq = s.passSeq := rfl
@[simp] theorem State.modSec_engines : (s.modSec f).engines = s.engines := rfl
@[simp] theorem State.modSec_windows : (s.modSec f).windows = s.windows := rfl
@[simp] theorem State.modSec_slices : (s.modSec f).slices = s.slices := rfl
@[simp] theorem State.modSec_books : (s.modSec f).books = s.books := rfl
@[simp] theorem State.modSec_dram : (s.modSec f).dram = s.dram := rfl
@[simp] theorem State.modSec_ports : (s.modSec f).ports = s.ports := rfl
@[simp] theorem State.modSec_peers : (s.modSec f).peers = s.peers := rfl
@[simp] theorem State.modSec_sendRx : (s.modSec f).sendRx = s.sendRx := rfl
@[simp] theorem State.modSec_sendTx : (s.modSec f).sendTx = s.sendTx := rfl
@[simp] theorem State.modSec_streams : (s.modSec f).streams = s.streams := rfl
@[simp] theorem State.modSec_market : (s.modSec f).market = s.market := rfl
@[simp] theorem State.modSec_tx : (s.modSec f).tx = s.tx := rfl
@[simp] theorem State.modSec_bell : (s.modSec f).bell = s.bell := rfl
@[simp] theorem State.modSec_book : (s.modSec f).book = s.book := rfl
@[simp] theorem State.modSec_pins : (s.modSec f).pins = s.pins := rfl
@[simp] theorem State.modSec_power : (s.modSec f).power = s.power := rfl
@[simp] theorem State.modSec_watch : (s.modSec f).watch = s.watch := rfl
@[simp] theorem State.modSec_tables : (s.modSec f).tables = s.tables := rfl
@[simp] theorem State.modSec_ctrs : (s.modSec f).ctrs = s.ctrs := rfl
@[simp] theorem State.eng_modSec (k : Nat) : (s.modSec f).eng k = s.eng k := rfl
@[simp] theorem State.queue_modSec (k : Nat) : (s.modSec f).queue k = s.queue k := rfl
@[simp] theorem State.job_modSec (k : Nat) : (s.modSec f).job k = s.job k := rfl
@[simp] theorem State.run_modSec (k : Nat) : (s.modSec f).run k = s.run k := rfl
@[simp] theorem State.area_modSec (k : Nat) : (s.modSec f).area k = s.area k := rfl
@[simp] theorem State.slot_modSec (k : Nat) : (s.modSec f).slot k = s.slot k := rfl
@[simp] theorem State.slice_modSec (k : Nat) : (s.modSec f).slice k = s.slice k := rfl
@[simp] theorem State.port_modSec (k : Nat) : (s.modSec f).port k = s.port k := rfl
@[simp] theorem State.peer_modSec (k : Nat) : (s.modSec f).peer k = s.peer k := rfl
@[simp] theorem State.rx_modSec (k : Nat) : (s.modSec f).rx k = s.rx k := rfl
@[simp] theorem State.stx_modSec (k : Nat) : (s.modSec f).stx k = s.stx k := rfl
@[simp] theorem State.stream_modSec (k : Nat) : (s.modSec f).stream k = s.stream k := rfl
@[simp] theorem State.table_modSec (k : Nat) : (s.modSec f).table k = s.table k := rfl
@[simp] theorem State.cell_modSec (k : Nat) : (s.modSec f).cell k = s.cell k := rfl
@[simp] theorem State.window_modSec (j k : Nat) : (s.modSec f).window j k = s.window j k := rfl
@[simp] theorem State.cbSlot_modSec (j k : Nat) : (s.modSec f).cbSlot j k = s.cbSlot j k := rfl
@[simp] theorem State.ctx_modSec (q : Path) : (s.modSec f).ctx q = s.ctx q := rfl
@[simp] theorem State.byte_modSec (k : Nat) : (s.modSec f).byte k = s.byte k := rfl
@[simp] theorem State.bytes_modSec (j k : Nat) : (s.modSec f).bytes j k = s.bytes j k := rfl
@[simp] theorem State.ctr_modSec (j k l : Nat) : (s.modSec f).ctr j k l = s.ctr j k l := rfl
@[simp] theorem State.entry_modSec (k : Nat) : (s.modSec f).entry k = s.entry k := rfl
end

/-! ## modPins -/

section
variable (s : State) (f : Pins → Pins)
@[simp] theorem State.modPins_pins : (s.modPins f).pins = f s.pins := rfl
@[simp] theorem State.modPins_pending : (s.modPins f).pending = s.pending := rfl
@[simp] theorem State.modPins_fresh : (s.modPins f).fresh = s.fresh := rfl
@[simp] theorem State.modPins_dev : (s.modPins f).dev = s.dev := rfl
@[simp] theorem State.modPins_ctxs : (s.modPins f).ctxs = s.ctxs := rfl
@[simp] theorem State.modPins_queues : (s.modPins f).queues = s.queues := rfl
@[simp] theorem State.modPins_ledger : (s.modPins f).ledger = s.ledger := rfl
@[simp] theorem State.modPins_mirror : (s.modPins f).mirror = s.mirror := rfl
@[simp] theorem State.modPins_badP : (s.modPins f).badP = s.badP := rfl
@[simp] theorem State.modPins_badM : (s.modPins f).badM = s.badM := rfl
@[simp] theorem State.modPins_jobs : (s.modPins f).jobs = s.jobs := rfl
@[simp] theorem State.modPins_runs : (s.modPins f).runs = s.runs := rfl
@[simp] theorem State.modPins_areas : (s.modPins f).areas = s.areas := rfl
@[simp] theorem State.modPins_cells : (s.modPins f).cells = s.cells := rfl
@[simp] theorem State.modPins_admitting : (s.modPins f).admitting = s.admitting := rfl
@[simp] theorem State.modPins_slots : (s.modPins f).slots = s.slots := rfl
@[simp] theorem State.modPins_slotSeq : (s.modPins f).slotSeq = s.slotSeq := rfl
@[simp] theorem State.modPins_passSeq : (s.modPins f).passSeq = s.passSeq := rfl
@[simp] theorem State.modPins_engines : (s.modPins f).engines = s.engines := rfl
@[simp] theorem State.modPins_windows : (s.modPins f).windows = s.windows := rfl
@[simp] theorem State.modPins_slices : (s.modPins f).slices = s.slices := rfl
@[simp] theorem State.modPins_books : (s.modPins f).books = s.books := rfl
@[simp] theorem State.modPins_dram : (s.modPins f).dram = s.dram := rfl
@[simp] theorem State.modPins_ports : (s.modPins f).ports = s.ports := rfl
@[simp] theorem State.modPins_peers : (s.modPins f).peers = s.peers := rfl
@[simp] theorem State.modPins_sendRx : (s.modPins f).sendRx = s.sendRx := rfl
@[simp] theorem State.modPins_sendTx : (s.modPins f).sendTx = s.sendTx := rfl
@[simp] theorem State.modPins_streams : (s.modPins f).streams = s.streams := rfl
@[simp] theorem State.modPins_market : (s.modPins f).market = s.market := rfl
@[simp] theorem State.modPins_tx : (s.modPins f).tx = s.tx := rfl
@[simp] theorem State.modPins_bell : (s.modPins f).bell = s.bell := rfl
@[simp] theorem State.modPins_book : (s.modPins f).book = s.book := rfl
@[simp] theorem State.modPins_power : (s.modPins f).power = s.power := rfl
@[simp] theorem State.modPins_watch : (s.modPins f).watch = s.watch := rfl
@[simp] theorem State.modPins_sec : (s.modPins f).sec = s.sec := rfl
@[simp] theorem State.modPins_tables : (s.modPins f).tables = s.tables := rfl
@[simp] theorem State.modPins_ctrs : (s.modPins f).ctrs = s.ctrs := rfl
@[simp] theorem State.eng_modPins (k : Nat) : (s.modPins f).eng k = s.eng k := rfl
@[simp] theorem State.queue_modPins (k : Nat) : (s.modPins f).queue k = s.queue k := rfl
@[simp] theorem State.job_modPins (k : Nat) : (s.modPins f).job k = s.job k := rfl
@[simp] theorem State.run_modPins (k : Nat) : (s.modPins f).run k = s.run k := rfl
@[simp] theorem State.area_modPins (k : Nat) : (s.modPins f).area k = s.area k := rfl
@[simp] theorem State.slot_modPins (k : Nat) : (s.modPins f).slot k = s.slot k := rfl
@[simp] theorem State.slice_modPins (k : Nat) : (s.modPins f).slice k = s.slice k := rfl
@[simp] theorem State.port_modPins (k : Nat) : (s.modPins f).port k = s.port k := rfl
@[simp] theorem State.peer_modPins (k : Nat) : (s.modPins f).peer k = s.peer k := rfl
@[simp] theorem State.rx_modPins (k : Nat) : (s.modPins f).rx k = s.rx k := rfl
@[simp] theorem State.stx_modPins (k : Nat) : (s.modPins f).stx k = s.stx k := rfl
@[simp] theorem State.stream_modPins (k : Nat) : (s.modPins f).stream k = s.stream k := rfl
@[simp] theorem State.table_modPins (k : Nat) : (s.modPins f).table k = s.table k := rfl
@[simp] theorem State.cell_modPins (k : Nat) : (s.modPins f).cell k = s.cell k := rfl
@[simp] theorem State.window_modPins (j k : Nat) : (s.modPins f).window j k = s.window j k := rfl
@[simp] theorem State.cbSlot_modPins (j k : Nat) : (s.modPins f).cbSlot j k = s.cbSlot j k := rfl
@[simp] theorem State.ctx_modPins (q : Path) : (s.modPins f).ctx q = s.ctx q := rfl
@[simp] theorem State.byte_modPins (k : Nat) : (s.modPins f).byte k = s.byte k := rfl
@[simp] theorem State.bytes_modPins (j k : Nat) : (s.modPins f).bytes j k = s.bytes j k := rfl
@[simp] theorem State.ctr_modPins (j k l : Nat) : (s.modPins f).ctr j k l = s.ctr j k l := rfl
@[simp] theorem State.entry_modPins (k : Nat) : (s.modPins f).entry k = s.entry k := rfl
end

/-! ## write -/

section
variable (s : State) (a : Nat) (bs : List Byte)
@[simp] theorem State.write_dram : (s.write a bs).dram = Mem.setBytes 0 s.dram a bs := rfl
@[simp] theorem State.write_pending : (s.write a bs).pending = s.pending := rfl
@[simp] theorem State.write_fresh : (s.write a bs).fresh = s.fresh := rfl
@[simp] theorem State.write_dev : (s.write a bs).dev = s.dev := rfl
@[simp] theorem State.write_ctxs : (s.write a bs).ctxs = s.ctxs := rfl
@[simp] theorem State.write_queues : (s.write a bs).queues = s.queues := rfl
@[simp] theorem State.write_ledger : (s.write a bs).ledger = s.ledger := rfl
@[simp] theorem State.write_mirror : (s.write a bs).mirror = s.mirror := rfl
@[simp] theorem State.write_badP : (s.write a bs).badP = s.badP := rfl
@[simp] theorem State.write_badM : (s.write a bs).badM = s.badM := rfl
@[simp] theorem State.write_jobs : (s.write a bs).jobs = s.jobs := rfl
@[simp] theorem State.write_runs : (s.write a bs).runs = s.runs := rfl
@[simp] theorem State.write_areas : (s.write a bs).areas = s.areas := rfl
@[simp] theorem State.write_cells : (s.write a bs).cells = s.cells := rfl
@[simp] theorem State.write_admitting : (s.write a bs).admitting = s.admitting := rfl
@[simp] theorem State.write_slots : (s.write a bs).slots = s.slots := rfl
@[simp] theorem State.write_slotSeq : (s.write a bs).slotSeq = s.slotSeq := rfl
@[simp] theorem State.write_passSeq : (s.write a bs).passSeq = s.passSeq := rfl
@[simp] theorem State.write_engines : (s.write a bs).engines = s.engines := rfl
@[simp] theorem State.write_windows : (s.write a bs).windows = s.windows := rfl
@[simp] theorem State.write_slices : (s.write a bs).slices = s.slices := rfl
@[simp] theorem State.write_books : (s.write a bs).books = s.books := rfl
@[simp] theorem State.write_ports : (s.write a bs).ports = s.ports := rfl
@[simp] theorem State.write_peers : (s.write a bs).peers = s.peers := rfl
@[simp] theorem State.write_sendRx : (s.write a bs).sendRx = s.sendRx := rfl
@[simp] theorem State.write_sendTx : (s.write a bs).sendTx = s.sendTx := rfl
@[simp] theorem State.write_streams : (s.write a bs).streams = s.streams := rfl
@[simp] theorem State.write_market : (s.write a bs).market = s.market := rfl
@[simp] theorem State.write_tx : (s.write a bs).tx = s.tx := rfl
@[simp] theorem State.write_bell : (s.write a bs).bell = s.bell := rfl
@[simp] theorem State.write_book : (s.write a bs).book = s.book := rfl
@[simp] theorem State.write_pins : (s.write a bs).pins = s.pins := rfl
@[simp] theorem State.write_power : (s.write a bs).power = s.power := rfl
@[simp] theorem State.write_watch : (s.write a bs).watch = s.watch := rfl
@[simp] theorem State.write_sec : (s.write a bs).sec = s.sec := rfl
@[simp] theorem State.write_tables : (s.write a bs).tables = s.tables := rfl
@[simp] theorem State.write_ctrs : (s.write a bs).ctrs = s.ctrs := rfl
@[simp] theorem State.eng_write (k : Nat) : (s.write a bs).eng k = s.eng k := rfl
@[simp] theorem State.queue_write (k : Nat) : (s.write a bs).queue k = s.queue k := rfl
@[simp] theorem State.job_write (k : Nat) : (s.write a bs).job k = s.job k := rfl
@[simp] theorem State.run_write (k : Nat) : (s.write a bs).run k = s.run k := rfl
@[simp] theorem State.area_write (k : Nat) : (s.write a bs).area k = s.area k := rfl
@[simp] theorem State.slot_write (k : Nat) : (s.write a bs).slot k = s.slot k := rfl
@[simp] theorem State.slice_write (k : Nat) : (s.write a bs).slice k = s.slice k := rfl
@[simp] theorem State.port_write (k : Nat) : (s.write a bs).port k = s.port k := rfl
@[simp] theorem State.peer_write (k : Nat) : (s.write a bs).peer k = s.peer k := rfl
@[simp] theorem State.rx_write (k : Nat) : (s.write a bs).rx k = s.rx k := rfl
@[simp] theorem State.stx_write (k : Nat) : (s.write a bs).stx k = s.stx k := rfl
@[simp] theorem State.stream_write (k : Nat) : (s.write a bs).stream k = s.stream k := rfl
@[simp] theorem State.table_write (k : Nat) : (s.write a bs).table k = s.table k := rfl
@[simp] theorem State.cell_write (k : Nat) : (s.write a bs).cell k = s.cell k := rfl
@[simp] theorem State.window_write (j k : Nat) : (s.write a bs).window j k = s.window j k := rfl
@[simp] theorem State.cbSlot_write (j k : Nat) : (s.write a bs).cbSlot j k = s.cbSlot j k := rfl
@[simp] theorem State.ctx_write (q : Path) : (s.write a bs).ctx q = s.ctx q := rfl
@[simp] theorem State.ctr_write (j k l : Nat) : (s.write a bs).ctr j k l = s.ctr j k l := rfl
@[simp] theorem State.entry_write (k : Nat) : (s.write a bs).entry k = s.entry k := rfl
end

/-! ## bump -/

section
variable (s : State) (g i c n : Nat)
@[simp] theorem State.bump_ctrs : (s.bump g i c n).ctrs = Tab.set 0 s.ctrs (ctrIndex g i c) (s.ctr g i c + BitVec.ofNat 40 n) := rfl
@[simp] theorem State.bump_pending : (s.bump g i c n).pending = s.pending := rfl
@[simp] theorem State.bump_fresh : (s.bump g i c n).fresh = s.fresh := rfl
@[simp] theorem State.bump_dev : (s.bump g i c n).dev = s.dev := rfl
@[simp] theorem State.bump_ctxs : (s.bump g i c n).ctxs = s.ctxs := rfl
@[simp] theorem State.bump_queues : (s.bump g i c n).queues = s.queues := rfl
@[simp] theorem State.bump_ledger : (s.bump g i c n).ledger = s.ledger := rfl
@[simp] theorem State.bump_mirror : (s.bump g i c n).mirror = s.mirror := rfl
@[simp] theorem State.bump_badP : (s.bump g i c n).badP = s.badP := rfl
@[simp] theorem State.bump_badM : (s.bump g i c n).badM = s.badM := rfl
@[simp] theorem State.bump_jobs : (s.bump g i c n).jobs = s.jobs := rfl
@[simp] theorem State.bump_runs : (s.bump g i c n).runs = s.runs := rfl
@[simp] theorem State.bump_areas : (s.bump g i c n).areas = s.areas := rfl
@[simp] theorem State.bump_cells : (s.bump g i c n).cells = s.cells := rfl
@[simp] theorem State.bump_admitting : (s.bump g i c n).admitting = s.admitting := rfl
@[simp] theorem State.bump_slots : (s.bump g i c n).slots = s.slots := rfl
@[simp] theorem State.bump_slotSeq : (s.bump g i c n).slotSeq = s.slotSeq := rfl
@[simp] theorem State.bump_passSeq : (s.bump g i c n).passSeq = s.passSeq := rfl
@[simp] theorem State.bump_engines : (s.bump g i c n).engines = s.engines := rfl
@[simp] theorem State.bump_windows : (s.bump g i c n).windows = s.windows := rfl
@[simp] theorem State.bump_slices : (s.bump g i c n).slices = s.slices := rfl
@[simp] theorem State.bump_books : (s.bump g i c n).books = s.books := rfl
@[simp] theorem State.bump_dram : (s.bump g i c n).dram = s.dram := rfl
@[simp] theorem State.bump_ports : (s.bump g i c n).ports = s.ports := rfl
@[simp] theorem State.bump_peers : (s.bump g i c n).peers = s.peers := rfl
@[simp] theorem State.bump_sendRx : (s.bump g i c n).sendRx = s.sendRx := rfl
@[simp] theorem State.bump_sendTx : (s.bump g i c n).sendTx = s.sendTx := rfl
@[simp] theorem State.bump_streams : (s.bump g i c n).streams = s.streams := rfl
@[simp] theorem State.bump_market : (s.bump g i c n).market = s.market := rfl
@[simp] theorem State.bump_tx : (s.bump g i c n).tx = s.tx := rfl
@[simp] theorem State.bump_bell : (s.bump g i c n).bell = s.bell := rfl
@[simp] theorem State.bump_book : (s.bump g i c n).book = s.book := rfl
@[simp] theorem State.bump_pins : (s.bump g i c n).pins = s.pins := rfl
@[simp] theorem State.bump_power : (s.bump g i c n).power = s.power := rfl
@[simp] theorem State.bump_watch : (s.bump g i c n).watch = s.watch := rfl
@[simp] theorem State.bump_sec : (s.bump g i c n).sec = s.sec := rfl
@[simp] theorem State.bump_tables : (s.bump g i c n).tables = s.tables := rfl
@[simp] theorem State.eng_bump (k : Nat) : (s.bump g i c n).eng k = s.eng k := rfl
@[simp] theorem State.queue_bump (k : Nat) : (s.bump g i c n).queue k = s.queue k := rfl
@[simp] theorem State.job_bump (k : Nat) : (s.bump g i c n).job k = s.job k := rfl
@[simp] theorem State.run_bump (k : Nat) : (s.bump g i c n).run k = s.run k := rfl
@[simp] theorem State.area_bump (k : Nat) : (s.bump g i c n).area k = s.area k := rfl
@[simp] theorem State.slot_bump (k : Nat) : (s.bump g i c n).slot k = s.slot k := rfl
@[simp] theorem State.slice_bump (k : Nat) : (s.bump g i c n).slice k = s.slice k := rfl
@[simp] theorem State.port_bump (k : Nat) : (s.bump g i c n).port k = s.port k := rfl
@[simp] theorem State.peer_bump (k : Nat) : (s.bump g i c n).peer k = s.peer k := rfl
@[simp] theorem State.rx_bump (k : Nat) : (s.bump g i c n).rx k = s.rx k := rfl
@[simp] theorem State.stx_bump (k : Nat) : (s.bump g i c n).stx k = s.stx k := rfl
@[simp] theorem State.stream_bump (k : Nat) : (s.bump g i c n).stream k = s.stream k := rfl
@[simp] theorem State.table_bump (k : Nat) : (s.bump g i c n).table k = s.table k := rfl
@[simp] theorem State.cell_bump (k : Nat) : (s.bump g i c n).cell k = s.cell k := rfl
@[simp] theorem State.window_bump (j k : Nat) : (s.bump g i c n).window j k = s.window j k := rfl
@[simp] theorem State.cbSlot_bump (j k : Nat) : (s.bump g i c n).cbSlot j k = s.cbSlot j k := rfl
@[simp] theorem State.ctx_bump (q : Path) : (s.bump g i c n).ctx q = s.ctx q := rfl
@[simp] theorem State.byte_bump (k : Nat) : (s.bump g i c n).byte k = s.byte k := rfl
@[simp] theorem State.bytes_bump (j k : Nat) : (s.bump g i c n).bytes j k = s.bytes j k := rfl
@[simp] theorem State.entry_bump (k : Nat) : (s.bump g i c n).entry k = s.entry k := rfl
end

/-! ## used -/

section
variable (s : State) (n : Nat)
@[simp] theorem State.used_fresh : (s.used n).fresh = s.fresh + n := rfl
@[simp] theorem State.used_pending : (s.used n).pending = s.pending := rfl
@[simp] theorem State.used_dev : (s.used n).dev = s.dev := rfl
@[simp] theorem State.used_ctxs : (s.used n).ctxs = s.ctxs := rfl
@[simp] theorem State.used_queues : (s.used n).queues = s.queues := rfl
@[simp] theorem State.used_ledger : (s.used n).ledger = s.ledger := rfl
@[simp] theorem State.used_mirror : (s.used n).mirror = s.mirror := rfl
@[simp] theorem State.used_badP : (s.used n).badP = s.badP := rfl
@[simp] theorem State.used_badM : (s.used n).badM = s.badM := rfl
@[simp] theorem State.used_jobs : (s.used n).jobs = s.jobs := rfl
@[simp] theorem State.used_runs : (s.used n).runs = s.runs := rfl
@[simp] theorem State.used_areas : (s.used n).areas = s.areas := rfl
@[simp] theorem State.used_cells : (s.used n).cells = s.cells := rfl
@[simp] theorem State.used_admitting : (s.used n).admitting = s.admitting := rfl
@[simp] theorem State.used_slots : (s.used n).slots = s.slots := rfl
@[simp] theorem State.used_slotSeq : (s.used n).slotSeq = s.slotSeq := rfl
@[simp] theorem State.used_passSeq : (s.used n).passSeq = s.passSeq := rfl
@[simp] theorem State.used_engines : (s.used n).engines = s.engines := rfl
@[simp] theorem State.used_windows : (s.used n).windows = s.windows := rfl
@[simp] theorem State.used_slices : (s.used n).slices = s.slices := rfl
@[simp] theorem State.used_books : (s.used n).books = s.books := rfl
@[simp] theorem State.used_dram : (s.used n).dram = s.dram := rfl
@[simp] theorem State.used_ports : (s.used n).ports = s.ports := rfl
@[simp] theorem State.used_peers : (s.used n).peers = s.peers := rfl
@[simp] theorem State.used_sendRx : (s.used n).sendRx = s.sendRx := rfl
@[simp] theorem State.used_sendTx : (s.used n).sendTx = s.sendTx := rfl
@[simp] theorem State.used_streams : (s.used n).streams = s.streams := rfl
@[simp] theorem State.used_market : (s.used n).market = s.market := rfl
@[simp] theorem State.used_tx : (s.used n).tx = s.tx := rfl
@[simp] theorem State.used_bell : (s.used n).bell = s.bell := rfl
@[simp] theorem State.used_book : (s.used n).book = s.book := rfl
@[simp] theorem State.used_pins : (s.used n).pins = s.pins := rfl
@[simp] theorem State.used_power : (s.used n).power = s.power := rfl
@[simp] theorem State.used_watch : (s.used n).watch = s.watch := rfl
@[simp] theorem State.used_sec : (s.used n).sec = s.sec := rfl
@[simp] theorem State.used_tables : (s.used n).tables = s.tables := rfl
@[simp] theorem State.used_ctrs : (s.used n).ctrs = s.ctrs := rfl
@[simp] theorem State.eng_used (k : Nat) : (s.used n).eng k = s.eng k := rfl
@[simp] theorem State.queue_used (k : Nat) : (s.used n).queue k = s.queue k := rfl
@[simp] theorem State.job_used (k : Nat) : (s.used n).job k = s.job k := rfl
@[simp] theorem State.run_used (k : Nat) : (s.used n).run k = s.run k := rfl
@[simp] theorem State.area_used (k : Nat) : (s.used n).area k = s.area k := rfl
@[simp] theorem State.slot_used (k : Nat) : (s.used n).slot k = s.slot k := rfl
@[simp] theorem State.slice_used (k : Nat) : (s.used n).slice k = s.slice k := rfl
@[simp] theorem State.port_used (k : Nat) : (s.used n).port k = s.port k := rfl
@[simp] theorem State.peer_used (k : Nat) : (s.used n).peer k = s.peer k := rfl
@[simp] theorem State.rx_used (k : Nat) : (s.used n).rx k = s.rx k := rfl
@[simp] theorem State.stx_used (k : Nat) : (s.used n).stx k = s.stx k := rfl
@[simp] theorem State.stream_used (k : Nat) : (s.used n).stream k = s.stream k := rfl
@[simp] theorem State.table_used (k : Nat) : (s.used n).table k = s.table k := rfl
@[simp] theorem State.cell_used (k : Nat) : (s.used n).cell k = s.cell k := rfl
@[simp] theorem State.window_used (j k : Nat) : (s.used n).window j k = s.window j k := rfl
@[simp] theorem State.cbSlot_used (j k : Nat) : (s.used n).cbSlot j k = s.cbSlot j k := rfl
@[simp] theorem State.ctx_used (q : Path) : (s.used n).ctx q = s.ctx q := rfl
@[simp] theorem State.byte_used (k : Nat) : (s.used n).byte k = s.byte k := rfl
@[simp] theorem State.bytes_used (j k : Nat) : (s.used n).bytes j k = s.bytes j k := rfl
@[simp] theorem State.ctr_used (j k l : Nat) : (s.used n).ctr j k l = s.ctr j k l := rfl
@[simp] theorem State.entry_used (k : Nat) : (s.used n).entry k = s.entry k := rfl
end

/-! ## emit -/

section
variable (s : State) (f : TxFrame)
@[simp] theorem State.emit_tx : (s.emit f).tx = s.tx ++ [f] := rfl
@[simp] theorem State.emit_pending : (s.emit f).pending = s.pending := rfl
@[simp] theorem State.emit_fresh : (s.emit f).fresh = s.fresh := rfl
@[simp] theorem State.emit_dev : (s.emit f).dev = s.dev := rfl
@[simp] theorem State.emit_ctxs : (s.emit f).ctxs = s.ctxs := rfl
@[simp] theorem State.emit_queues : (s.emit f).queues = s.queues := rfl
@[simp] theorem State.emit_ledger : (s.emit f).ledger = s.ledger := rfl
@[simp] theorem State.emit_mirror : (s.emit f).mirror = s.mirror := rfl
@[simp] theorem State.emit_badP : (s.emit f).badP = s.badP := rfl
@[simp] theorem State.emit_badM : (s.emit f).badM = s.badM := rfl
@[simp] theorem State.emit_jobs : (s.emit f).jobs = s.jobs := rfl
@[simp] theorem State.emit_runs : (s.emit f).runs = s.runs := rfl
@[simp] theorem State.emit_areas : (s.emit f).areas = s.areas := rfl
@[simp] theorem State.emit_cells : (s.emit f).cells = s.cells := rfl
@[simp] theorem State.emit_admitting : (s.emit f).admitting = s.admitting := rfl
@[simp] theorem State.emit_slots : (s.emit f).slots = s.slots := rfl
@[simp] theorem State.emit_slotSeq : (s.emit f).slotSeq = s.slotSeq := rfl
@[simp] theorem State.emit_passSeq : (s.emit f).passSeq = s.passSeq := rfl
@[simp] theorem State.emit_engines : (s.emit f).engines = s.engines := rfl
@[simp] theorem State.emit_windows : (s.emit f).windows = s.windows := rfl
@[simp] theorem State.emit_slices : (s.emit f).slices = s.slices := rfl
@[simp] theorem State.emit_books : (s.emit f).books = s.books := rfl
@[simp] theorem State.emit_dram : (s.emit f).dram = s.dram := rfl
@[simp] theorem State.emit_ports : (s.emit f).ports = s.ports := rfl
@[simp] theorem State.emit_peers : (s.emit f).peers = s.peers := rfl
@[simp] theorem State.emit_sendRx : (s.emit f).sendRx = s.sendRx := rfl
@[simp] theorem State.emit_sendTx : (s.emit f).sendTx = s.sendTx := rfl
@[simp] theorem State.emit_streams : (s.emit f).streams = s.streams := rfl
@[simp] theorem State.emit_market : (s.emit f).market = s.market := rfl
@[simp] theorem State.emit_bell : (s.emit f).bell = s.bell := rfl
@[simp] theorem State.emit_book : (s.emit f).book = s.book := rfl
@[simp] theorem State.emit_pins : (s.emit f).pins = s.pins := rfl
@[simp] theorem State.emit_power : (s.emit f).power = s.power := rfl
@[simp] theorem State.emit_watch : (s.emit f).watch = s.watch := rfl
@[simp] theorem State.emit_sec : (s.emit f).sec = s.sec := rfl
@[simp] theorem State.emit_tables : (s.emit f).tables = s.tables := rfl
@[simp] theorem State.emit_ctrs : (s.emit f).ctrs = s.ctrs := rfl
@[simp] theorem State.eng_emit (k : Nat) : (s.emit f).eng k = s.eng k := rfl
@[simp] theorem State.queue_emit (k : Nat) : (s.emit f).queue k = s.queue k := rfl
@[simp] theorem State.job_emit (k : Nat) : (s.emit f).job k = s.job k := rfl
@[simp] theorem State.run_emit (k : Nat) : (s.emit f).run k = s.run k := rfl
@[simp] theorem State.area_emit (k : Nat) : (s.emit f).area k = s.area k := rfl
@[simp] theorem State.slot_emit (k : Nat) : (s.emit f).slot k = s.slot k := rfl
@[simp] theorem State.slice_emit (k : Nat) : (s.emit f).slice k = s.slice k := rfl
@[simp] theorem State.port_emit (k : Nat) : (s.emit f).port k = s.port k := rfl
@[simp] theorem State.peer_emit (k : Nat) : (s.emit f).peer k = s.peer k := rfl
@[simp] theorem State.rx_emit (k : Nat) : (s.emit f).rx k = s.rx k := rfl
@[simp] theorem State.stx_emit (k : Nat) : (s.emit f).stx k = s.stx k := rfl
@[simp] theorem State.stream_emit (k : Nat) : (s.emit f).stream k = s.stream k := rfl
@[simp] theorem State.table_emit (k : Nat) : (s.emit f).table k = s.table k := rfl
@[simp] theorem State.cell_emit (k : Nat) : (s.emit f).cell k = s.cell k := rfl
@[simp] theorem State.window_emit (j k : Nat) : (s.emit f).window j k = s.window j k := rfl
@[simp] theorem State.cbSlot_emit (j k : Nat) : (s.emit f).cbSlot j k = s.cbSlot j k := rfl
@[simp] theorem State.ctx_emit (q : Path) : (s.emit f).ctx q = s.ctx q := rfl
@[simp] theorem State.byte_emit (k : Nat) : (s.emit f).byte k = s.byte k := rfl
@[simp] theorem State.bytes_emit (j k : Nat) : (s.emit f).bytes j k = s.bytes j k := rfl
@[simp] theorem State.ctr_emit (j k l : Nat) : (s.emit f).ctr j k l = s.ctr j k l := rfl
@[simp] theorem State.entry_emit (k : Nat) : (s.emit f).entry k = s.entry k := rfl
end

end Sys2Proof.Machine
end

