-- ==== Sys2Proof/Laws/Calm.lean ====
section
/-! SUPPORT. What the shared operations do where nothing waits: the end of a command of a Quiet state, reads and writes of a Healthy Ledger, checks
without an armed injection, and records of a Parish Book with room. -/

namespace Sys2Proof.Machine

/-! ## The end of a command -/

theorem State.settle_quiet {s : State} (h : s.Quiet) : s.settle = s := by
  obtain ⟨h1, h2, h3, h4⟩ := h
  simp [State.settle, State.reportsDone, State.exitCheck, State.openDone, State.openCheck, State.retryCheck, h1, h2, h3, h4]

theorem done_quiet {s : State} (h : s.Quiet) : done s = .next s := by rw [done, State.settle_quiet h]

/-- The same without the state's own hypotheses: what `settle` looks at. -/
theorem done_of {s : State} (h1 : s.bell.heldReports = []) (h2 : s.bell.exit = none) (h3 : s.sec.opening = none) (h4 : s.dev.retryDue = false) :
    done s = .next s := done_quiet ⟨h1, h2, h3, h4⟩

/-! ## Injection -/

theorem State.injHits_unarmed {s : State} (h : s.bell.injArmed = false) (t u n : Nat) : s.injHits t u n = 0 := by simp [State.injHits, h]
@[simp] theorem State.useInj_zero (s : State) : s.useInj 0 = s := by simp [State.useInj]

theorem State.dramCheck_unarmed {s : State} (h : s.bell.injArmed = false) (a n : Nat) : s.dramCheck a n = (none, s) := by
  have key : ∀ l : List Nat, l.foldl (fun (acc : Option Nat × State) b =>
      let s := acc.2
      let c := chanOf (b * 256)
      let h := s.injHits 6 c 5
      if h = 0 then acc
      else
        let s := (s.useInj h).bump 3 c 0 (min h 4)
        (if h = 5 then acc.1.or (some c) else acc.1, s)) (none, s) = (none, s) := by
    intro l; induction l with
    | nil => rfl
    | cons b l ih => simp [State.injHits_unarmed h] at ih ⊢; exact ih
  unfold State.dramCheck; split
  · rfl
  · exact key _

theorem State.portCheck_unarmed {s : State} (h : s.bell.injArmed = false) (e n : Nat) : s.portCheck e n = (false, s) := by
  have key : ∀ l : List Nat, l.foldl (fun (acc : Bool × State) _ =>
      let s := acc.2
      let h := failedTries [] (s.injHits 5 e 5)
      if h = 0 then acc
      else
        let s := (s.useInj h).bump 0 e 27 (min h 4)
        if h = 5 then (true, s)
        else (acc.1, s.raise { source := 0x06, inst := e, inj := true })) (false, s) = (false, s) := by
    intro l; induction l with
    | nil => rfl
    | cons b l ih => simp [State.injHits_unarmed h, failedTries] at ih ⊢; exact ih
  exact key _

/-! ## The Ledger -/

theorem State.entry_healthy {s : State} (h : s.Healthy) (e : Nat) : s.entry e = Tab.get {} s.ledger e := by simp [State.entry, h.1]

/-- A durable write of a Healthy Ledger writes both copies and nothing else (R446). -/
theorem State.writeEntry_healthy {s : State} (h : s.Healthy) (e : Nat) (f : Entry → Entry) :
    s.writeEntry e f = { s with ledger := Tab.set {} s.ledger e (f (s.entry e)), mirror := Tab.set {} s.mirror e (f (s.entry e)) } := by
  obtain ⟨h1, h2, h3, _⟩ := h
  simp [State.writeEntry, State.injHits, h1, h2, h3]

theorem State.healthy_writeEntry {s : State} (h : s.Healthy) (e : Nat) (f : Entry → Entry) : (s.writeEntry e f).Healthy := by
  rw [State.writeEntry_healthy h]; exact h

theorem State.entry_writeEntry {s : State} (h : s.Healthy) (e k : Nat) (f : Entry → Entry) :
    (s.writeEntry e f).entry k = if k = e then f (s.entry e) else s.entry k := by
  rw [State.entry_healthy (State.healthy_writeEntry h e f), State.writeEntry_healthy h, State.entry_healthy h, State.entry_healthy h]
  exact Tab.get_set _ _ _ _ _

/-! ## The Parish Book -/

/-- A record of a Book with room joins the buffer, and PBREC counts it (R603, R612). -/
theorem State.addRec_room {s : State} (h : s.BookRoom) (r : Rec) :
    s.addRec r = (s.modBook fun b => { b with buf := b.buf ++ [r] }).bump 12 0 1 1 := by
  obtain ⟨h1, h2⟩ := h
  have h3 : ¬ 127 ≤ s.book.ordinary := by
    have := List.length_filter_le (fun r : Rec => decide (r.code ≠ BitVec.ofNat 16 codePfail)) s.book.buf
    unfold Book.ordinary; omega
  simp [State.addRec, h1, h3, State.modBook, State.bump]; omega

theorem State.record_room {s : State} (h : s.BookRoom) (code p0 p1 p2 p3 : Nat) :
    s.record code p0 p1 p2 p3 = (s.modBook fun b => { b with buf := b.buf ++ [s.mkRec code p0 p1 p2 p3] }).bump 12 0 1 1 :=
  State.addRec_room h _

/-! ## Flags -/

theorem State.setIrq_irqstat (s : State) (b : BitVec 11) : (s.setIrq b).dev.irqstat = s.dev.irqstat ||| b := rfl

/-- FLTSUM gains the bits set, and FLTSUM.ALERT too where the Parish Book's bits newly set. -/
theorem State.setFlt_dram (s : State) (b : Byte) : (s.setFlt b).dram = s.dram ∧ (s.setFlt b).ledger = s.ledger ∧ (s.setFlt b).pending = s.pending := by
  simp only [State.setFlt, State.alert, State.setIrq, State.modDev, State.modBell, State.modPins]
  split <;> split <;> (try split) <;> simp

/-! ## Memory in canonical form -/

theorem State.write_wf {s : State} (h : Memory.wf s.dram) (a : Nat) (bs : List Byte) : Memory.wf (s.write a bs).dram :=
  Mem.wf_setBytes _ _ _ _ h

theorem State.reset_dram_wf : Memory.wf State.reset.dram := by decide

end Sys2Proof.Machine
end

