-- ==== Sys2Proof/WellFormed.lean ====
section
/-! DEFINITION. Which commands a sender can spell: the checks on operands whose types are wider than the wire. -/

namespace Sys2Proof

/-- A Skouk frame: 24 bytes of parameters (R514) and a payload no longer than the largest payload size (R499). -/
def SkFrame.wf (f : SkFrame) : Bool := f.param.length == 24 && f.payload.length ≤ 8192

/-- An AVTP frame: sixteen header bytes for R539 and a payload within a jumbo frame (R498). -/
def AvtpFrame.wf (f : AvtpFrame) : Bool := f.aafh.length == 16 && f.payload.length ≤ 9000

/-- An Ethernet frame: at least 64 bytes, and a body of its kind. -/
def EthFrame.wf (fr : EthFrame) : Bool :=
  64 ≤ fr.len && (match fr.body with
    | .skouk f => f.wf && f.port == fr.port && 52 + f.payload.length ≤ fr.len
    | .avtp a => a.wf
    | .other p => p.length ≤ fr.len)

/-- A fault report names an instance a byte can hold (PARAM0 [7:0] of R602). -/
def Report.wf (r : Report) : Bool := r.inst < 256

/-- A window write is one row of a transfer, at most 2^24 - 1 bytes (R354, R385). -/
def WinWrite.wf (w : WinWrite) : Bool := w.data.length < 16777216

/-- Well-formed commands. -/
def Instr.wf : Instr → Bool
  | .submit f => f.wf
  | .rreg f => f.wf
  | .wreg f => f.wf
  | .rmem f => f.wf
  | .wmem f => f.wf
  | .wwin f => f.wf
  | .sendFrameReceive f => f.wf
  | .wack f => f.wf
  | .wnak f => f.wf
  | .ack f => f.wf
  | .join f => f.wf
  | .hello f => f.wf
  | .stream fr => fr.wf
  | .aafFrame fr => fr.wf
  | .frameReceive fr => fr.wf
  | .faultReport r => r.wf
  | .windowWrite w => w.wf
  | .escalationQuietExpiry _ inst => inst < 256
  | .tdmFrame _ slots => slots.length == 8
  | .spiTransaction _ bytes => 2 ≤ bytes.length && bytes.length ≤ 32
  | _ => true

end Sys2Proof
end

