-- ==== Sys2Proof/Tests/Slice0.lean ====
section
/-! SUPPORT. Tests: ill-formed commands that the checks refuse, small steps on small states, and for each statement a state and operands that
meet its hypotheses. -/

open Sys2Proof Sys2Proof.Machine

namespace Sys2Proof.Tests

set_option Elab.async false

/-! ## States to test on -/

/-- A part that has booted and recovered, in ACTIVE. -/
def up : State := { State.reset with dev := { State.reset.dev with bootok := true, rdone := true, pstate := psActive } }

/-- A command entry (R193): opcode, `CFLAGS`, descriptor count and address, immediates. -/
def entryOf (op flags ndesc desc : Nat) (imm : List Byte) : List Byte :=
  leBytes 1 op ++ leBytes 3 0 ++ leBytes 1 ndesc ++ leBytes 1 flags ++ leBytes 2 0 ++ leBytes 6 desc ++ leBytes 26 0 ++ imm

/-- A descriptor (R200): role, TYPE, SCALE, address, scale table, extents of D0 and D1. -/
def descOfBytes (role ty sc addr stab n0 n1 : Nat) : List Byte :=
  leBytes 1 role ++ leBytes 1 ty ++ leBytes 1 sc ++ [1] ++ leBytes 6 addr ++ leBytes 6 stab ++ leBytes 3 n0 ++ leBytes 3 n1 ++ leBytes 3 1 ++
    leBytes 3 1 ++ leBytes 4 0

/-- A FP32 tensor of `n` elements. -/
def fpDesc (role addr n : Nat) : List Byte := descOfBytes role 10 0 addr 0 n 1

/-- A job whose entry 0 is `x`, over a memory. -/
def job (x : Entry) (m : Mem) : State := { up with ledger := [(0, x)], mirror := [(0, x)], dram := m }
/-- A command list at 0x1000. -/
def listed (bs : List Byte) : Mem := Mem.setBytes 0 [] 0x1000 bs
def accepted : Entry := { st := .accepted, list := 0x1000 }
def running : Entry := { st := .running, list := 0x1000 }

def nopJob : State := job accepted (listed (entryOf opNop 0 0 0 []))
def endJob : State := job accepted (listed (entryOf opEnd 0 0 0 []))
/-- COPY of four FP32 elements. -/
def copyJob : State :=
  job accepted (Mem.setBytes 0 (listed (entryOf opCopy 1 2 0x2000 [])) 0x2000 (fpDesc roX 0x3000 4 ++ fpDesc roY 0x4000 4))
/-- A GEMM of S4 codes: X is 2 × 4, W is 4 × 3, Y is FP32; both scale tables stand at 0x5000. -/
def gemmJob : State :=
  job accepted (Mem.setBytes 0 (Mem.setBytes 0 (listed (entryOf opGemm 1 3 0x2000 [])) 0x2000
    (descOfBytes roX 0 0x20 0x3000 0x5000 4 2 ++ descOfBytes roW 0 0x20 0x3100 0x5000 4 3 ++ descOfBytes roY 10 0 0x4000 0 3 2))
    0x5000 (leBytes 4 0x3F800000 ++ leBytes 4 1))
def signalJob : State := job accepted (listed (entryOf opSignal 0 0 0 ([3, 0, 0, 0] ++ leBytes 4 0x7FFFFFFF)))
def loadbJob : State := job accepted (listed (entryOf opLoadb 0 0 0 ([15, 1] ++ leBytes 6 0x3000)))
/-- WAIT of queue 1 on counter 0 of queue 0. -/
def waitJob (thresh timeout : Nat) : State :=
  job { accepted with queue := 1 } (listed (entryOf opWait 0 0 0 ([0, 0, 0, 0] ++ leBytes 4 thresh ++ leBytes 4 timeout)))
/-- WOPEN of window 7 of engine 23, its length the shortest, at the end of the Barn. -/
def wopenJob (n : Nat) : State :=
  job accepted (Mem.setBytes 0 (listed (entryOf opWopen 0 n (if n = 0 then 0 else 0x2000)
    ([23, 7, 0, 0] ++ leBytes 4 0x5FFFC0 ++ leBytes 4 64 ++ leBytes 4 1 ++ leBytes 8 0))) 0x2000
    (if n = 0 then [] else leBytes 1 roWrec ++ leBytes 3 0 ++ leBytes 6 0x3000))
def wcloseJob : State :=
  (job accepted (listed (entryOf opWclose 0 0 0 [23, 7]))).setWindow 23 7 { st := .opn, off := 0x5FFFC0, len := 64, engmask := 1 }
def scrubJob : State := job accepted (listed (entryOf opScrub 0 0 0 [0, 0, 0x80, 3]))
/-- CODEBOOK of a VQ book of 16 entries of 4 codes at 0x3000, all zero. -/
def bookJob : State :=
  job accepted (Mem.setBytes 0 (Mem.setBytes 0 (listed (entryOf opCodebook 0 1 0x2000 [15, 0, 1, 0])) 0x2000 (leBytes 1 roCbook ++ leBytes 3 0 ++ leBytes 6 0x3000))
    0x3000 ([1, 1, 4, 4, 0, 0, 0, 0] ++ leBytes 4 (crc32c (List.replicate 32 0)).toNat))

/-! ## Witnesses: the opcodes -/

theorem witness_TiledCommandStarts_copy : (.copy 0, opCopy) ∈ tiledCommands 0 ∧ copyJob.CanBegin 0 opCopy ∧ copyJob.Passes 0 := by decide
theorem witness_TiledCommandStarts_gemm : (.gemm 0, opGemm) ∈ tiledCommands 0 ∧ gemmJob.CanBegin 0 opGemm ∧ gemmJob.Passes 0 := by decide +kernel

/-- A COPY that has passed its check and waits for a slot. -/
def waitingJob : State := { copyJob with ledger := [(0, running)], mirror := [(0, running)], runs := [(0, { phase := .waitSlot, tcount := 1 })] }

theorem witness_SlotIsAssigned : waitingJob.Quiet ∧ waitingJob.Healthy ∧ waitingJob.Working ∧ waitingJob.nextWaiter = some 0 ∧ 0 < 16384 ∧
    waitingJob.freeSlot = some 0 ∧ waitingJob.freeArea = some 0 ∧ (waitingJob.area 0).bitmap = [] := by decide

theorem witness_NopCommits_nop : nopJob.CanBegin 0 opNop ∧ nopJob.Passes 0 := by decide

/-- A NOP whose work is finished. -/
def finishedJob : State := { nopJob with ledger := [(0, running)], mirror := [(0, running)], runs := [(0, { phase := .finished })] }

theorem witness_NopCommits_commit : finishedJob.Quiet ∧ finishedJob.Healthy ∧ finishedJob.Working ∧ (finishedJob.entry 0).st = .running ∧
    (finishedJob.run 0).phase = .finished ∧
    (finishedJob.opcodeAt 0 = opNop ∨ finishedJob.opcodeAt 0 = opSignal ∨ finishedJob.opcodeAt 0 = opLoadb) ∧
    (finishedJob.entry 0).area = none ∧ finishedJob.slotOf 0 = none := by decide

theorem witness_EndEndsTheJob : endJob.CanBegin 0 opEnd ∧ endJob.Passes 0 := by decide
theorem witness_SignalAndLoadb_signal : signalJob.CanBegin 0 opSignal ∧ signalJob.Passes 0 := by decide
theorem witness_SignalAndLoadb_loadb : loadbJob.CanBegin 0 opLoadb ∧ loadbJob.Passes 0 := by decide
theorem witness_WaitWaitsOrTimesOut_met : (waitJob 0 0).CanBegin 0 opWait ∧ (waitJob 0 0).Passes 0 ∧
    (waitJob 0 0).waitMet (cmdOf ((waitJob 0 0).cmdBytes 0)) = true := by decide
theorem witness_WaitWaitsOrTimesOut_waits : (waitJob 1 0).CanBegin 0 opWait ∧ (waitJob 1 0).Passes 0 ∧
    (waitJob 1 0).waitMet (cmdOf ((waitJob 1 0).cmdBytes 0)) = false := by decide

/-- The same WAIT under way, with a TIMEOUT. -/
def timingJob : State :=
  { waitJob 1 1 with ledger := [(0, { running with queue := 1 })], mirror := [(0, { running with queue := 1 })], runs := [(0, { phase := .acting })] }

theorem witness_WaitWaitsOrTimesOut_timeout : timingJob.Quiet ∧ timingJob.Healthy ∧ timingJob.Working ∧ (timingJob.run 0).phase = .acting ∧
    timingJob.opcodeAt 0 = opWait ∧ (cmdOf (timingJob.cmdBytes 0)).im 48 4 ≠ 0 ∧ timingJob.waitMet (cmdOf (timingJob.cmdBytes 0)) = false ∧
    (timingJob.entry 0).status = 0 ∧ timingJob.slotOf 0 = none ∧ timingJob.cmdCont 0 = false := by decide

theorem witness_WopenOpensTheWindow_plain : (wopenJob 0).CanBegin 0 opWopen ∧ (wopenJob 0).Passes 0 := by decide
theorem witness_WopenOpensTheWindow_wrec : (wopenJob 1).CanBegin 0 opWopen ∧ (wopenJob 1).Passes 0 ∧
    ((wopenJob 1).loadCtx 0).p.has roWrec = true := by decide
theorem witness_WcloseAndScrubBegin_wclose : wcloseJob.CanBegin 0 opWclose ∧ wcloseJob.Passes 0 := by decide
theorem witness_WcloseAndScrubBegin_scrub : scrubJob.CanBegin 0 opScrub ∧ scrubJob.Passes 0 ∧ (cmdOf (scrubJob.cmdBytes 0)).im 43 % 4 ≠ 0 ∧
    bitOf ((cmdOf (scrubJob.cmdBytes 0)).im 43) 2 = false ∧ 23 < 24 ∧ bitOf ((cmdOf (scrubJob.cmdBytes 0)).im 40 3) 23 = true := by decide
theorem witness_CodebookBecomesCurrent : bookJob.CanBegin 0 opCodebook ∧ bookJob.Passes 0 ∧
    (∀ i, i < 16 → (bookJob.cbSlot i 0).st ≠ .retiring ∧ (bookJob.cbSlot i 1).st ≠ .retiring) ∧ (bookJob.cbSlot 15 0).st = .empty ∧
    (bookJob.cbSlot 15 1).st = .empty ∧
    bookJob.cbCrcOk (((bookJob.loadCtx 0).p.d roCbook).addr) (bookJob.cbEcrc ((bookJob.loadCtx 0).p.d roCbook).addr) = true := by decide +kernel

/-- The COPY held by BARRIER, and at step 14. -/
def heldAt (ph : RunPhase) : State := { copyJob with runs := [(0, { phase := ph })] }

theorem witness_HeldCommandsStart_barrier : (heldAt .barrier).Quiet ∧ (heldAt .barrier).Healthy ∧ (heldAt .barrier).Working ∧
    ((heldAt .barrier).entry 0).st = .accepted ∧ tiledOp ((heldAt .barrier).opcodeAt 0) = true ∧ ((heldAt .barrier).run 0).phase = .barrier ∧
    (heldAt .barrier).earlierDone 0 = true ∧ (heldAt .barrier).Passes 0 := by decide
theorem witness_HeldCommandsStart_loader : (heldAt .wait14).Quiet ∧ (heldAt .wait14).Healthy ∧ (heldAt .wait14).Working ∧
    ((heldAt .wait14).entry 0).st = .accepted ∧ tiledOp ((heldAt .wait14).opcodeAt 0) = true ∧ ((heldAt .wait14).run 0).phase = .wait14 ∧
    (heldAt .wait14).checkFrom5 ((heldAt .wait14).loadCtx 0) = .pass := by decide

/-- A NOP with a reserved CFLAGS bit. -/
def badJob : State := job accepted (listed (entryOf opNop 0x80 0 0 []))

theorem witness_FailedCheckEndsTheJob : badJob.CanBegin 0 opNop ∧ badJob.checkAll (badJob.loadCtx 0) = .fail stFormat 2 0xFF 0 ∧
    (badJob.entry 0).status = 0 ∧ badJob.cmdCont 0 = false ∧ badJob.BookRoom := by decide

/-! ## Witnesses: completions, the Tally and the engines -/

/-- A job that has reached COMMITTED, in a queue of one completion ring. -/
def doneJob : State :=
  { nopJob with ledger := [(0, { running with st := .committed })], mirror := [(0, { running with st := .committed })]
                queues := [(0, { en := true, cbase := 0x8000 })] }

theorem witness_CompletionIsPosted : doneJob.Quiet ∧ doneJob.Healthy ∧ doneJob.Working ∧ doneJob.postable 0 = some 0 ∧
    (doneJob.queue 0).room = true ∧ (doneJob.entry 0).queue.toNat = 0 ∧ (doneJob.entry 0).form = false ∧
    (doneJob.entry 0).cplack = false := by decide

/-- The COPY under way in slot 0: tile 0 not yet handed out. -/
def slotJob : State :=
  { copyJob with ledger := [(0, { running with slot := some 0, area := some 0, cepoch := 1 })]
                 mirror := [(0, { running with slot := some 0, area := some 0, cepoch := 1 })]
                 runs := [(0, { phase := .tiled, tcount := 1 })]
                 areas := [(0, { owner := some 0 })]
                 slots := [(0, { used := true, tcount := 1, epoch := 1 })] }

/-- AVAILABLE is on its way to engine 23. -/
def availJob : State := slotJob.modEng 23 fun e => { e with idle := true, inq := [.available] }

theorem witness_AvailableAndAging_available : availJob.Quiet ∧ availJob.dev.halted = false ∧ (availJob.eng 23).inq = .available :: [] ∧
    availJob.mayClaim 23 = true ∧ (availJob.eng 23).claiming = false ∧ (availJob.eng 23).claims = [] := by decide
theorem witness_AvailableAndAging_aging : (slotJob.modSlot 0 fun x => { x with eprio := 2 }).Quiet ∧
    ((slotJob.modSlot 0 fun x => { x with eprio := 2 }).slot 0).ready = true ∧
    ((slotJob.modSlot 0 fun x => { x with eprio := 2 }).slot 0).eprio < 3 := by decide
theorem witness_ClaimsAreServedInOrder : slotJob.pickSlot = some 0 := by decide

/-- A claim of engine 23 is on its way. -/
def claimJob : State := slotJob.modEng 23 fun e => { e with claiming := true, outq := [.claim] }
/-- The same with tile 0 returned before. -/
def claimRet : State := claimJob.modSlot 0 fun x => { x with nextT := 1, ret := [0] }
/-- The same with no slot in use. -/
def claimIdle (fenced : Bool) : State := up.modEng 23 fun e => { e with outq := [.claim], fenced := fenced }

theorem witness_TallyServesAClaim_fenced : (claimIdle true).Quiet ∧ ((claimIdle true).eng 23).outq = .claim :: [] ∧
    (claimIdle true).dev.halted = false ∧ ((claimIdle true).eng 23).fenced = true := by decide
theorem witness_TallyServesAClaim_none : (claimIdle false).Quiet ∧ ((claimIdle false).eng 23).outq = .claim :: [] ∧
    (claimIdle false).dev.halted = false ∧ ((claimIdle false).eng 23).fenced = false ∧ (claimIdle false).pickSlot = none := by decide
theorem witness_TallyServesAClaim_new : claimJob.Quiet ∧ (claimJob.eng 23).outq = .claim :: [] ∧
    (claimJob.eng 23).fenced = false ∧ claimJob.dev.halted = false ∧ claimJob.pickSlot = some 0 ∧ (claimJob.slot 0).ret = [] := by decide
theorem witness_TallyServesAClaim_ret : claimRet.Quiet ∧ (claimRet.eng 23).outq = .claim :: [] ∧
    (claimRet.eng 23).fenced = false ∧ claimRet.dev.halted = false ∧ claimRet.pickSlot = some 0 ∧ (claimRet.slot 0).ret = 0 :: [] := by decide

/-- Tile 0 is open at engine 23 under epoch 1. -/
def openJob : State := slotJob.modSlot 0 fun x => { x with nextT := 1, opn := [⟨23, 0, 1⟩] }
/-- The answer to its claim is on its way, while it holds other tiles. -/
def grantJob (g : Option Grant) (claims : List Claim) : State :=
  openJob.modEng 23 fun e => { e with claiming := true, inq := [.grant g], claims := claims }
/-- A tile of another command in DRAIN, in pending cell 1. -/
def otherTile : Claim := { slot := 1, tile := 5, epoch := 1, phase := .drain, cell := 1, wrote := true, computed := true }

theorem witness_GrantBeginsLoad_none : (grantJob none []).Quiet ∧ (grantJob none []).Healthy ∧ (grantJob none []).dev.halted = false ∧
    ((grantJob none []).eng 23).inq = .grant none :: [] := by decide
theorem witness_GrantBeginsLoad_load : (grantJob (some ⟨0, 0, 1⟩) []).Quiet ∧ (grantJob (some ⟨0, 0, 1⟩) []).Healthy ∧
    (grantJob (some ⟨0, 0, 1⟩) []).dev.halted = false ∧ ((grantJob (some ⟨0, 0, 1⟩) []).eng 23).inq = .grant (some ⟨0, 0, 1⟩) :: [] ∧
    ((grantJob (some ⟨0, 0, 1⟩) []).eng 23).claims = [] ∧ ((grantJob (some ⟨0, 0, 1⟩) []).eng 23).scrubs = [] ∧
    (grantJob (some ⟨0, 0, 1⟩) []).dev.pstate = psActive ∧
    ¬ (((grantJob (some ⟨0, 0, 1⟩) []).slot 0).used = true ∧ ((grantJob (some ⟨0, 0, 1⟩) []).slot 0).stopping = false ∧
      ((grantJob (some ⟨0, 0, 1⟩) []).planOf ((grantJob (some ⟨0, 0, 1⟩) []).slot 0).entry.val).emptyTile 0 = true) := by decide
theorem witness_GrantBeginsLoad_claimed : (grantJob (some ⟨0, 0, 1⟩) [otherTile]).Quiet ∧ (grantJob (some ⟨0, 0, 1⟩) [otherTile]).Healthy ∧
    (grantJob (some ⟨0, 0, 1⟩) [otherTile]).dev.halted = false ∧
    ((grantJob (some ⟨0, 0, 1⟩) [otherTile]).eng 23).inq = .grant (some ⟨0, 0, 1⟩) :: [] ∧
    (((grantJob (some ⟨0, 0, 1⟩) [otherTile]).eng 23).claims.any fun c => c.phase != .claimed) = true := by decide

/-- The claim of tile 0 of slot 0 under epoch 1, in a phase. -/
def tile0 (ph : TilePhase) : Claim := { slot := 0, tile := 0, epoch := 1, phase := ph }
/-- Tile 0 at engine 23 in a phase. -/
def tileAt (ph : TilePhase) : State := openJob.modEng 23 fun e => { e with claims := [tile0 ph] }
/-- Tile 0 in DRAIN, with a write of its output on its way. -/
def drainAt (win : Option (Nat × Nat × BitVec 16)) : State :=
  (tileAt .drain).modEng 23 fun e => { e with
    wouts := [{ fa := 0x4000, data := List.replicate 16 7, mask := List.replicate 16 0x0F, win := win }], dep := some ⟨0, 0, 1, 4, 0, 0, 0, []⟩ }

theorem witness_TilePhasesAdvance_load : (tileAt .load).Quiet ∧ (tileAt .load).Healthy ∧
    ((tileAt .load).eng 23).inPhase .load = some (tile0 .load) ∧ (tile0 .load).failed = false ∧ (tileAt .load).dev.halted = false ∧
    ((tileAt .load).eng 23).rows = [] := by decide
theorem witness_TilePhasesAdvance_compute : (tileAt .compute).Quiet ∧ (tileAt .compute).Healthy ∧
    ((tileAt .compute).eng 23).inPhase .compute = some (tile0 .compute) ∧ (tile0 .compute).failed = false ∧ (tile0 .compute).poisoned = false ∧
    (tileAt .compute).dev.halted = false ∧ ((tileAt .compute).eng 23).barn.bad = [] ∧ ((tileAt .compute).eng 23).hold = false ∧
    (tileAt .compute).ComputesClean 23 (tile0 .compute) := by
  refine ⟨by decide, by decide, by decide, by decide, by decide, by decide, by decide, by decide, fun _ => ?_⟩
  have h : (((tileAt .compute).computeTile 23 (tile0 .compute) ((tileAt .compute).planOf ((tileAt .compute).slot (tile0 .compute).slot).entry.val)).eng 23).stook = [] := by decide +kernel
  exact ⟨by decide +kernel, by decide +kernel, fun k => by rw [h]; show (({} : StookEntry)).parOk = true ∧ (({} : StookEntry)).resOk = true; decide⟩

theorem witness_TilePhasesAdvance_drain : (drainAt none).Quiet ∧ (drainAt none).Healthy ∧
    ((drainAt none).eng 23).inPhase .drain = some (tile0 .drain) ∧ (tile0 .drain).failed = false ∧ (tile0 .drain).poisoned = false ∧
    (drainAt none).dev.halted = false ∧ (drainAt none).sendsDue 23 (tile0 .drain) = false ∧ ((drainAt none).eng 23).barn.bad = [] ∧
    (drainAt none).liveClaim (tile0 .drain) = true ∧ (drainAt none).staleWrite 0 1 = false ∧
    (∀ w ∈ ((drainAt none).eng 23).wouts ++ ((drainAt none).eng 23).wtodo, w.win = none) ∧ ((drainAt none).eng 23).claims = [tile0 .drain] := by
  decide

/-- The tile in DRAIN when its slot has gone on to epoch 2, and when the slot is stopping. -/
def staleTile (stopping : Bool) : State :=
  (if stopping then tileAt .drain else drainAt none).modSlot 0 fun x => if stopping then { x with stopping := true } else
    { x with epoch := 2, opn := [], ret := [0] }

theorem witness_StaleTileWritesNothing_stale : (staleTile false).Quiet ∧ (staleTile false).Healthy ∧
    ((staleTile false).eng 23).claims = [tile0 .drain] ∧ (staleTile false).dev.halted = false ∧
    (staleTile false).sendsDue 23 (tile0 .drain) = false ∧ ((staleTile false).eng 23).barn.bad = [] ∧ (staleTile false).staleWrite 0 1 = true ∧
    (∀ w ∈ ((staleTile false).eng 23).wouts ++ ((staleTile false).eng 23).wtodo, w.win = none) := by decide
theorem witness_StaleTileWritesNothing_stopping : (staleTile true).Quiet ∧ (staleTile true).Healthy ∧
    ((staleTile true).eng 23).claims = [tile0 .drain] ∧ (staleTile true).dev.halted = false ∧
    (staleTile true).sendsDue 23 (tile0 .drain) = false ∧ ((staleTile true).slot 0).stopping = true ∧ ((staleTile true).eng 23).wouts = [] ∧
    ((staleTile true).eng 23).wtodo = [] := by decide

/-- DONE of tile 0 under an epoch is on its way. -/
def donesAt (ep : BitVec 16) : State := openJob.modEng 23 fun e => { e with outq := [.done ⟨0, 0, ep⟩ 0] }

theorem witness_TallyAcceptsDone_accepted : (donesAt 1).Quiet ∧ ((donesAt 1).eng 23).outq = .done ⟨0, 0, 1⟩ 0 :: [] ∧ ((donesAt 1).slot 0).used = true ∧
    ((donesAt 1).slot 0).stopping = false ∧ ((donesAt 1).slot 0).epoch = 1 ∧
    (((donesAt 1).slot 0).opn.any fun c => c.eng.val == 23 && c.tile == 0) = true := by decide
theorem witness_TallyAcceptsDone_stale : (donesAt 0).Quiet ∧ ((donesAt 0).eng 23).outq = .done ⟨0, 0, 0⟩ 0 :: [] ∧
    ((donesAt 0).slot 0).epoch ≠ 0 := by decide

/-- The deposit of tile 0 is the last one. -/
def foldJob : State := slotJob.modSlot 0 fun x => { x with nextT := 1, done := 1, doneTiles := [0], foldq := [⟨0, 0, 1, 4, 0, 0, 0, []⟩] }

theorem witness_DepositIsFolded : foldJob.Quiet ∧ foldJob.Healthy ∧ (foldJob.slot 0).foldq = ⟨0, 0, 1, 4, 0, 0, 0, []⟩ :: [] ∧
    (foldJob.slot 0).used = true ∧ (foldJob.slot 0).stopping = false ∧ foldJob.dev.halted = false ∧ foldJob.sec.reeveHalted = false ∧
    (foldJob.entry (foldJob.slot 0).entry.val).area = some 0 ∧ (foldJob.slot 0).done = (foldJob.slot 0).tcount := by decide

/-- RESTAMP to epoch 2 is the oldest message to engine 23, which has tile 0 in a phase. -/
def restampAt (ph : TilePhase) : State := (tileAt ph).modEng 23 fun e => { e with inq := [.restamp 0 2, .available] }

theorem witness_EngineHandlesRestamp_kept : (restampAt .drain).Quiet ∧ (restampAt .drain).Healthy ∧ (restampAt .drain).dev.halted = false ∧
    ((restampAt .drain).eng 23).inq = .restamp 0 2 :: [.available] ∧ ((restampAt .drain).slot 0).stopping = false ∧
    ((restampAt .drain).eng 23).claims ≠ [] ∧
    (∀ c ∈ ((restampAt .drain).eng 23).claims, c.slot = 0 ∧ c.wrote = false ∧ c.phase ≠ .claimed) := by decide
theorem witness_EngineHandlesRestamp_stopping : ((restampAt .drain).modSlot 0 fun x => { x with stopping := true }).Quiet ∧
    ((restampAt .drain).modSlot 0 fun x => { x with stopping := true }).Healthy ∧
    (((restampAt .drain).modSlot 0 fun x => { x with stopping := true }).eng 23).inq = .restamp 0 2 :: [.available] ∧
    (((restampAt .drain).modSlot 0 fun x => { x with stopping := true }).slot 0).stopping = true ∧
    (∀ c ∈ (((restampAt .drain).modSlot 0 fun x => { x with stopping := true }).eng 23).claims, c.slot = 0) := by decide

/-- The answer to RESTAMP 2, with no tile kept, is on its way. -/
def answeredJob : State := (openJob.modEng 23 fun e => { e with outq := [.answer 0 2 []] }).modSlot 0 fun x => { x with epoch := 2 }

theorem witness_TallyTakesRestampAnswer : answeredJob.Quiet ∧ answeredJob.Healthy ∧
    (answeredJob.eng 23).outq = .answer 0 2 [] :: [] ∧ (answeredJob.slot 0).used = true ∧ (answeredJob.slot 0).stopping = false ∧
    ((answeredJob.slot 0).opn.filter fun c => c.eng.val == 23 && epochOlder c.stamp 2 && !([].contains c.tile)) ≠ [] := by decide

/-! ## Witnesses: transfers, the Granary, the Mill, windows and scrubs -/

/-- Reads of discarded tiles are due at engine 23, which may be fenced. -/
def discDue (fenced : Bool) : State := up.modEng 23 fun e => { e with discOut := 3, fenced := fenced }

theorem witness_TransfersReturnCredits_fenced : (discDue true).Quiet ∧ (discDue true).Healthy ∧ ((discDue true).eng 23).fenced = true := by decide
theorem witness_TransfersReturnCredits_discard : (discDue false).Quiet ∧ (discDue false).Healthy ∧ ((discDue false).eng 23).fenced = false ∧
    (discDue false).dev.halted = false ∧ (4 : Fin 5).val ≠ 0 ∧ ((discDue false).eng 23).discOut ≠ 0 := by decide

/-- A read of one block is under way, or sectors of the Mill, and every credit is in use. -/
def loading (mill : Bool) : State :=
  (tileAt .load).modEng 23 fun e =>
    if mill then { e with millOut := 4, copyOut := 252 } else { e with outs := [{ fa := 0x3000, len := 256, desc := 3 }], copyOut := 252 }

theorem witness_TransfersReturnCredits_read : (loading false).Quiet ∧ (loading false).Healthy ∧ ((loading false).eng 23).fenced = false ∧
    (loading false).dev.halted = false ∧ (4 : Fin 5).val ≠ 0 ∧ ((loading false).eng 23).discOut = 0 ∧
    ((loading false).eng 23).inPhase .load = some (tile0 .load) ∧ (tile0 .load).failed = false ∧ ((loading false).eng 23).creditsUsed ≤ 256 ∧
    (((loading false).eng 23).outs.find? fun r => r.sectors == 4) = some { fa := 0x3000, len := 256, desc := 3 } ∧
    (loading false).liveClaim (tile0 .load) = true := by decide
theorem witness_TransfersReturnCredits_mill : (loading true).Quiet ∧ (loading true).Healthy ∧ ((loading true).eng 23).fenced = false ∧
    ((loading true).eng 23).discOut = 0 ∧ ((loading true).eng 23).inPhase .load = some (tile0 .load) ∧
    ((loading true).eng 23).creditsUsed ≤ 256 ∧ (((loading true).eng 23).outs.find? fun r => r.sectors == 4) = none ∧
    4 ≤ ((loading true).eng 23).millOut := by decide
theorem witness_TransfersReturnCredits_nothing : ((tileAt .load).eng 23).inPhase .load = some (tile0 .load) ∧
    (((tileAt .load).eng 23).outs.find? fun r => r.sectors == 1) = none ∧ ((tileAt .load).eng 23).millOut < 1 := by decide

/-- Window 7 of engine 23 is open to engine 0, and the write of a tile of engine 0 lies in it. -/
def winTile : State :=
  (openJob.setWindow 23 7 { st := .opn, off := 64, len := 64, engmask := 1, devmask := 2, wepoch := 3 }).modEng 0 fun e => { e with
    claims := [tile0 .drain]
    wouts := [{ fa := aperBase + 23 * 0x1000000 + 112, data := List.replicate 16 9, mask := List.replicate 16 0xFF, win := some (23, 7, 3) }] }

theorem witness_TransfersReturnCredits_write : (drainAt none).Quiet ∧ (drainAt none).Healthy ∧ ((drainAt none).eng 23).fenced = false ∧
    (drainAt none).dev.halted = false ∧ (((drainAt none).eng 23).late.find? fun x => x.1.ackFits 1) = none ∧
    ((drainAt none).eng 23).inPhase .drain = some (tile0 .drain) ∧
    (((drainAt none).eng 23).wouts.find? fun w => w.ackFits 1).isSome = true ∧ ((drainAt none).eng 23).barn.bad = [] ∧
    ((drainAt none).eng 23).creditsUsed ≤ 256 ∧ (drainAt none).staleWrite 0 1 = false := by decide
theorem witness_TransfersReturnCredits_stale : (staleTile false).Quiet ∧ (staleTile false).Healthy ∧
    ((staleTile false).eng 23).inPhase .drain = some (tile0 .drain) ∧
    (((staleTile false).eng 23).wouts.find? fun w => w.ackFits 1).isSome = true ∧ (staleTile false).staleWrite 0 1 = true := by decide
theorem witness_TransfersReturnCredits_window : winTile.Quiet ∧ winTile.Healthy ∧ (winTile.eng 0).fenced = false ∧ (winTile.eng 23).fenced = false ∧
    (winTile.eng 0).inPhase .drain = some (tile0 .drain) ∧ ((winTile.eng 0).wouts.find? fun w => w.ackFits 1) =
      some { fa := aperBase + 23 * 0x1000000 + 112, data := List.replicate 16 9, mask := List.replicate 16 0xFF, win := some (23, 7, 3) } ∧
    winTile.staleWrite 0 1 = false ∧
    (winTile.window 23 7).admits 3 ((winTile.window 23 7).engmask.getLsbD 0) ((aperBase + 23 * 0x1000000 + 112 - aperBase) % 0x1000000) 16 = true := by
  decide
/-- A write of a tile that engine 23 has discarded is under way. -/
def lateWrite : State := up.modEng 23 fun e => { e with late := [({ fa := 0x4000, data := [1], mask := [0xFF] }, 5, 1)] }

theorem witness_TransfersReturnCredits_late : lateWrite.Quiet ∧ lateWrite.Healthy ∧ (lateWrite.eng 23).fenced = false ∧
    ((lateWrite.eng 23).late.find? fun x => x.1.ackFits 1) = some ({ fa := 0x4000, data := [1], mask := [0xFF] }, 5, 1) ∧
    lateWrite.staleWrite 5 1 = true := by decide
theorem witness_TransfersReturnCredits_quiet : up.Quiet ∧ up.Healthy ∧ (up.eng 23).fenced = false ∧ up.dev.halted = false ∧
    ((up.eng 23).late.find? fun x => x.1.ackFits 4) = none ∧ ((up.eng 23).wouts.find? fun w => w.ackFits 4) = none := by decide

theorem witness_RequestFailsFinally_read : (loading false).Healthy ∧ ((loading false).eng 23).fenced = false ∧ (loading false).dev.halted = false ∧
    ((loading false).eng 23).inPhase .load = some (tile0 .load) ∧ ((loading false).eng 23).discOut = 0 ∧ (loading false).Quiet ∧
    (((loading false).eng 23).outs.find? fun r => r.sectors == 4) = some { fa := 0x3000, len := 256, desc := 3 } ∧
    (loading false).MayReturn 23 (tile0 .load) ∧ Tab.get 0 (loading false).bell.esc (0x0D * 256 + 23) < 3 ∧
    Tab.get 0 (loading false).bell.esc (0x05 * 256 + 23) < 3 := by decide
theorem witness_RequestFailsFinally_write : (drainAt none).Healthy ∧ ((drainAt none).eng 23).inPhase .drain = some (tile0 .drain) ∧
    (((drainAt none).eng 23).wouts.find? fun w => w.sectors == 1).isSome = true ∧ (drainAt none).MayReturn 23 (tile0 .drain) := by decide

/-- Line 0 is present in way 4 of set 0 of its slice. -/
def lineIn : State := up.modSlice 0 fun x => { x with tags := [(4, some 0)] }
/-- Misses of lines of slice 0 are outstanding. -/
def linesDue (first n : Nat) : State := up.modSlice 0 fun x => { x with misses := (List.range n).map fun i => (32768 * (first + i), 0, 1) }

theorem witness_GranaryReadsAndFills_hit : lineIn.Quiet ∧ lineIn.Healthy ∧ inDram 0 1 = true ∧
    (lineIn.slice (lineIn.sliceFor 0)).wayOf (setOf 0) 0 = some 4 := by decide
theorem witness_GranaryReadsAndFills_miss : up.Quiet ∧ up.Healthy ∧ inDram 0xFFFFFFFFF 1 = true ∧
    (up.slice (up.sliceFor 0xFFFFFFFFF)).wayOf (setOf 0xFFFFFFFFF) (0xFFFFFFFFF / 128) = none ∧
    ((up.slice (up.sliceFor 0xFFFFFFFFF)).misses.any fun m => m.1 == 0xFFFFFFFFF / 128) = false ∧
    (up.slice (up.sliceFor 0xFFFFFFFFF)).misses.length < 64 ∧ (2 : BitVec 2).toNat < 3 := by decide
theorem witness_GranaryReadsAndFills_joined : (linesDue 0 1).Quiet ∧ (linesDue 0 1).Healthy ∧
    ((linesDue 0 1).slice ((linesDue 0 1).sliceFor 0)).wayOf (setOf 0) 0 = none ∧
    (((linesDue 0 1).slice ((linesDue 0 1).sliceFor 0)).misses.any fun m => m.1 == 0) = true := by decide
theorem witness_GranaryReadsAndFills_waits : (linesDue 1 64).Quiet ∧ (linesDue 1 64).Healthy ∧ (linesDue 1 64).sliceFor 0 = 0 ∧
    ((linesDue 1 64).slice 0).wayOf (setOf 0) 0 = none ∧ (((linesDue 1 64).slice 0).misses.any fun m => m.1 == 0) = false ∧
    64 ≤ ((linesDue 1 64).slice 0).misses.length := by decide
theorem witness_GranaryReadsAndFills_fill : (linesDue 0 1).Quiet ∧ (linesDue 0 1).Healthy ∧
    (((linesDue 0 1).slice ((linesDue 0 1).sliceFor 0)).misses.find? fun m => m.1 == 0 / 128) = some (0, 0, 1) ∧ (0, 0, 1).2.1 < 3 := by decide

/-- COPY EXPAND of a Zifer tensor of one VQ block at 0x3000: vectors of 128 codes of 4 bits, by 16 entries. Its payload is zero. -/
def keptMem : Mem :=
  Mem.setBytes 0 (Mem.setBytes 0 (Mem.setBytes 0 (listed (entryOf opCopy 1 2 0x2000 [3])) 0x2000
    (descOfBytes roX 0x80 0x20 0x3000 0x5000 64 1 ++ descOfBytes roY 0 0x20 0x8000 0x5000 64 1)) 0x3000
    ([1, 1, 0, 0, 0, 0, 0, 0] ++ leBytes 4 1 ++ leBytes 4 32 ++ leBytes 48 0 ++ leBytes 4 0 ++ leBytes 4 1)) 0x4000
    ([1, 0, 0, 0, 0, 0] ++ leBytes 2 32 ++ leBytes 40 0 ++ leBytes 4 0x23981B03)
/-- It is in LOAD at engine 23, whose Mill keeps block 0, or holds the codebook. -/
def keptJob (kept : Bool) : State :=
  ({ tileAt .load with dram := keptMem }.setCbSlot 0 0 { st := .current, vlen := 128, cbits := 4, ecode := 0 }).modEng 23 fun e =>
    if kept then { e with millKept := [(0x3000, 0)] } else { e with millBooks := [(0, 0)] }

theorem witness_KeptBlockIsReused_kept : (keptJob true).Quiet ∧ (keptJob true).Healthy ∧ ((keptJob true).eng 23).fenced = false ∧
    (keptJob true).dev.halted = false ∧ ((keptJob true).eng 23).inPhase .load = some (tile0 .load) ∧ (tile0 .load).failed = false ∧
    (keptJob true).liveClaim (tile0 .load) = true ∧
    (((keptJob true).planOf ((keptJob true).slot 0).entry.val).ds.any fun t => t.zifer && t.addr == 0x3000 &&
      ((keptJob true).planOf ((keptJob true).slot 0).entry.val).cmd.readsRole t.role && decide (0 + 32 ≤ t.len)) = true ∧
    blocksOfRun 0 32 = [0] ∧ ((keptJob true).eng 23).millKept.contains (0x3000, 0) = true := by decide +kernel
theorem witness_KeptBlockIsReused_read : (keptJob false).Quiet ∧ (keptJob false).Healthy ∧
    ((keptJob false).eng 23).inPhase .load = some (tile0 .load) ∧ (keptJob false).liveClaim (tile0 .load) = true ∧
    ((keptJob false).eng 23).millKept.contains (0x3000, 0) = false ∧
    ((keptJob false).eng 23).millBooks.contains (BitVec.ofNat 4 ((keptJob false).zhdr 0x3000).stream, BitVec.ofNat 16 ((keptJob false).zhdr 0x3000).cgen) = true ∧
    (keptJob false).blockCrcOk ((keptJob false).blockAt 0x3000 0) = true ∧
    (keptJob false).blockMismatch 0x3000 0 (((keptJob false).cbAny ((keptJob false).zhdr 0x3000).stream ((keptJob false).zhdr 0x3000).cgen).getD {}) = false := by
  decide +kernel

/-- Window 7 of engine 23 is open to engine 0, which has a tile of slot 0 in DRAIN under an epoch; slot 0 is at epoch 1. -/
def winJob (ep : BitVec 16) : State :=
  (slotJob.setWindow 23 7 { st := .opn, off := 64, len := 64, engmask := 1, devmask := 2, wepoch := 3 }).modEng 0 fun e => { e with
    claims := [{ tile0 .drain with epoch := ep }] }
/-- A write of the window's last eight bytes. -/
def winWrite (wepoch epoch : BitVec 16) (slot : Fin 64) : WinWrite :=
  { srcEng := 0, dstEng := 23, win := 7, wepoch := wepoch, off := 120, data := [1, 2, 3, 4, 5, 6, 7, 8], slot := slot, epoch := epoch }
/-- The same engine has discarded its tile of slot 63, a write of which is still under way. -/
def winGone : State := (winJob 1).modEng 0 fun e => { e with late := [({ fa := 0, data := [], mask := [] }, 63, 1)] }

theorem witness_WindowWriteLands_lands : (winJob 1).Quiet ∧ (winJob 1).Healthy ∧ ((winJob 1).eng 0).fenced = false ∧
    ((winJob 1).eng 0).writesFor 0 1 = true ∧ ((winJob 1).eng 23).fenced = false ∧
    ((winJob 1).window 23 7).admits 3 (((winJob 1).window 23 7).engmask.getLsbD 0) 120 8 = true ∧ (winJob 1).staleWrite 0 1 = false := by decide
theorem witness_WindowWriteLands_refused : winGone.Quiet ∧ winGone.Healthy ∧ (winGone.eng 0).writesFor 63 1 = true ∧
    (winGone.window 23 7).admits 2 ((winGone.window 23 7).engmask.getLsbD 0) 120 8 = false ∧ (winGone.slot 63).used = false := by decide
theorem witness_WindowWriteLands_stale : (winJob 0).Quiet ∧ ((winJob 0).eng 0).writesFor 0 0 = true ∧
    ((winJob 0).window 23 7).admits 3 (((winJob 0).window 23 7).engmask.getLsbD 0) 120 8 = true ∧ (winJob 0).staleWrite 0 0 = true := by decide
theorem witness_WindowWriteLands_none : (winJob 1).Quiet ∧ ((winJob 1).eng 0).writesFor 63 1 = false := by decide

/-- The window of WCLOSE is CLOSING, with and without the entry that waits. -/
def closingJob (e : Option (Fin 16384)) : State :=
  { job running (listed (entryOf opWclose 0 0 0 [23, 7])) with runs := [(0, { phase := .acting })] }.setWindow 23 7
    { st := .closing, off := 64, len := 64, engmask := 1, closer := e }

theorem witness_WindowIsCopiedHome : (closingJob (some 0)).Quiet ∧ (closingJob (some 0)).Healthy ∧ (closingJob (some 0)).Working ∧
    ((closingJob (some 0)).eng 23).barn.bad = [] ∧ ((closingJob (some 0)).window 23 7).st = .closing ∧
    ((closingJob (some 0)).window 23 7).len.toNat % 64 = 0 ∧
    ((closingJob (some 0)).window 23 7).closer = some 0 ∧ ((closingJob (some 0)).entry 0).st = .running ∧
    (closingJob (some 0)).opcodeAt 0 = opWclose ∧ ((closingJob (some 0)).entry 0).area = none ∧ (closingJob (some 0)).slotOf 0 = none ∧
    ((closingJob (some 0)).cmdAddr 0 + 64 ≤ winHome 23 64) := by decide

/-- Engines 0 and 23 have a part of a SCRUB. -/
def partsJob : State :=
  (up.modEng 0 fun e => { e with scrubs := [(0, true, true)] }).modEng 23 fun e => { e with scrubs := [(0, true, true), (1, true, false)] }
/-- Engine 23 has the last part. -/
def lastPart : State :=
  { job running (listed (entryOf opScrub 0 0 0 [0, 0, 0x80, 3])) with runs := [(0, { phase := .acting })] }.modEng 23 fun e => { e with
    scrubs := [(0, true, true)] }

theorem witness_EngineScrubs_part : partsJob.Quiet ∧ (partsJob.eng 23).scrubs = (0, true, true) :: [(1, true, false)] ∧ (partsJob.eng 23).claims = [] ∧
    partsJob.dev.halted = false ∧ (0 : Fin 24) ≠ 23 ∧ ((partsJob.eng 0).scrubs.any fun p => p.1 == 0) = true := by decide
theorem witness_EngineScrubs_last : lastPart.Quiet ∧ lastPart.Healthy ∧ lastPart.Working ∧ (lastPart.eng 23).scrubs = (0, true, true) :: [] ∧
    (lastPart.eng 23).claims = [] ∧ (∀ k, k < 24 → k ≠ 23 → ((lastPart.eng k).scrubs.any fun p => p.1 == 0) = false) ∧
    (lastPart.entry 0).st = .running ∧ lastPart.opcodeAt 0 = opScrub ∧ (lastPart.entry 0).area = none ∧ lastPart.slotOf 0 = none := by decide
theorem witness_EngineScrubs_scrubber : (up.modEng 0 fun e => { e with scrubPos := 98303 }).Quiet ∧
    (up.modEng 0 fun e => { e with scrubPos := 98303 }).engineClocked 0 = true ∧
    ((up.modEng 0 fun e => { e with scrubPos := 98303 }).eng 0).barn.bad = [] := by decide
theorem witness_EngineScrubs_stands : (discDue true).Quiet ∧ (discDue true).engineClocked 23 = false := by decide

/-! ## Witnesses: submission and the queue words -/

/-- P0 is linked to host 64, whose pair is up; queue 0 is enabled and the device runs. -/
def hostNet : State :=
  ((({ up with dev := { up.dev with run := true } }.setQueue 0 { en := true }).modPort 0 fun p => { p with rate := 1 }).setPeer 64
    { present := true, joined := true, joinAcked := true, psize := 1024 })
/-- A frame of host 64 to device 0, with parameters. -/
def hostFrame (ps : List Byte) (data : List Byte) : SkFrame := { src := 0x40, param := ps ++ List.replicate (24 - ps.length) 0, payload := data }

theorem witness_SubmitIsAnswered_accept : hostNet.Quiet ∧ hostNet.Healthy ∧ hostNet.Receives tySubmit (hostFrame [] []) ∧
    hostNet.InOrder (hostFrame [] []) ∧ hostNet.sec.reeveHalted = false ∧ isHost (epOf (hostFrame [] []).src) = true ∧
    ((hostNet.port 0).role = 0 ∨ (hostNet.port 0).role = 3) ∧ fld (hostFrame [] []).param 0 1 < 32 ∧ hostNet.admission 0 (some (0, true, 0)) = .accept ∧
    (Tab.get {} hostNet.ledger 16383).st = .free := by decide
theorem witness_SubmitIsAnswered_refuse : hostNet.Receives tySubmit (hostFrame [31] []) ∧ hostNet.InOrder (hostFrame [31] []) ∧
    fld (hostFrame [31] []).param 0 1 < 32 ∧ hostNet.admission 31 (some (0, true, 0)) = .refuse raState := by decide

theorem witness_SubmitIsAnswered_auth : hostNet.Receives tySubmit (hostFrame [32] []) ∧ hostNet.InOrder (hostFrame [32] []) ∧
    31 < fld (hostFrame [32] []).param 0 1 := by decide

/-- 64 submissions are at admission. -/
def busyNet : State := { hostNet with admitting := 64 }

theorem witness_SubmitIsAnswered_defer : busyNet.Quiet ∧ busyNet.Healthy ∧ busyNet.Receives tySubmit (hostFrame [] []) ∧
    busyNet.InOrder (hostFrame [] []) ∧ busyNet.admission 0 (some (0, true, 0)) = .defer raBusy := by decide

/-- The job is there already. -/
def dupNet : State := { hostNet with ledger := [(5, { st := .posted, originHost := true, jseq := 9 })] }

theorem witness_SubmitIsAnswered_dup : dupNet.Quiet ∧ dupNet.Healthy ∧ dupNet.Receives tySubmit (hostFrame [] []) ∧
    dupNet.InOrder (hostFrame [] []) ∧ dupNet.admission 0 (some (0, true, 0)) = .dup 9 := by decide

/-- One ring entry of queue 31 is held. -/
def ringHeld : State := hostNet.setQueue 31 { en := true, held := true, reason := 3, head := 0xFFFF, tail := 0, base := 0x8000 }

theorem witness_HeldRingEntryIsAdmitted : ringHeld.Quiet ∧ ringHeld.Healthy ∧ ringHeld.Working ∧ (ringHeld.queue 31).held = true ∧
    (ringHeld.queue 31).en = true ∧ (ringHeld.queue 31).tail = (ringHeld.queue 31).head + 1 ∧ ringHeld.admission 31 none = .accept ∧
    (Tab.get {} ringHeld.ledger 0).st = .free := by decide

/-- Queue 0 with a ring of 16, three entries completed. -/
def counts : State := up.setQueue 0 { ctail := 3 }

theorem witness_QueueCountsAreWritten : counts.Quiet ∧ counts.Healthy ∧ counts.canWrite .bus 0x0F = true ∧ counts.canWrite .bus 0x12 = true ∧
    2 ^ (counts.queue 0).lsize.toNat < ((17 : Half) - (counts.queue 0).head).toNat ∧
    ((16 : Half) - (counts.queue 0).head).toNat ≤ 2 ^ (counts.queue 0).lsize.toNat ∧ (counts.queue 0).en = false ∧
    ((counts.queue 0).ctail - (counts.queue 0).chead).toNat < ((4 : Half) - (counts.queue 0).chead).toNat ∧
    ((3 : Half) - (counts.queue 0).chead).toNat ≤ ((counts.queue 0).ctail - (counts.queue 0).chead).toNat ∧
    (∀ r ∈ counts.queueEntries 0, r.2.st ≠ .posted) := by decide
theorem witness_QueueIsConfigured_enable : up.Quiet ∧ up.canWrite .bus 0x0D = true ∧ up.canWrite .bus 0x0B = true ∧ (up.queue 0).en = false ∧
    up.depth 0 = 0 ∧ bitOf 0x80 7 = true ∧ bitOf 0x80 12 = false := by decide
theorem witness_QueueIsConfigured_disable : (up.setQueue 0 { en := true }).Quiet ∧ (up.setQueue 0 { en := true }).canWrite .bus 0x0D = true ∧
    (up.setQueue 0 { en := true }).canWrite .bus 0x0B = true ∧ ((up.setQueue 0 { en := true }).queue 0).en = true ∧ bitOf 0xFFFFFF7F 7 = false := by
  decide

/-! ## Witnesses: Skouk -/

theorem witness_RegisterFramesAreAnswered_rreg : hostNet.Quiet ∧ hostNet.InOrder (hostFrame [0, 1] []) ∧ hostNet.sec.reeveHalted = false ∧
    hostNet.sec.lc ≠ 0xF ∧ hostNet.Receives tyRreg (hostFrame [0, 1] []) ∧ fld (hostFrame [0, 1] []).param 1 1 = 1 ∧
    fld (hostFrame [0, 1] []).param 0 1 < 64 ∧
    (fld (hostFrame [0, 1] []).param 0 1 ≠ 0x2E ∧ fld (hostFrame [0, 1] []).param 0 1 ≠ 0x38 ∧
      fld (hostFrame [0, 1] []).param 0 1 ≠ 0x18 ∧ fld (hostFrame [0, 1] []).param 0 1 ≠ 0x27) := by decide
theorem witness_RegisterFramesAreAnswered_wreg : hostNet.InOrder (hostFrame [0x3B, 1] []) ∧ hostNet.Receives tyWreg (hostFrame [0x3B, 1] []) ∧
    fld (hostFrame [0x3B, 1] []).param 0 1 = 0x3B := by decide

/-- RMEM and WMEM of the last byte of DRAM. -/
def lastByte : List Byte := [0xFF, 0xFF, 0xFF, 0xFF, 0x0F, 0, 0, 0, 1]

theorem witness_MemoryFramesAreAnswered_rmem : hostNet.Quiet ∧ hostNet.Healthy ∧ hostNet.Working ∧ hostNet.InOrder (hostFrame lastByte []) ∧
    hostNet.lcWork = true ∧ hostNet.sec.lc ≠ 0xF ∧
    inDram (fld (hostFrame lastByte []).param 0 6) (fld (hostFrame lastByte []).param 8 4) = true ∧
    fld (hostFrame lastByte []).param 8 4 ≠ 0 ∧ hostNet.Receives tyRmem (hostFrame lastByte []) ∧
    fld (hostFrame lastByte []).param 8 4 ≤ hostNet.pairPsize 64 := by decide
/-- RMEM past the end of DRAM, and of one byte more than the pair payload size. -/
def pastEnd : List Byte := [0, 0, 0, 0, 0x10, 0, 0, 0, 1]
def tooLong : List Byte := [0, 0, 0, 0, 0, 0, 0, 0, 1, 4]

theorem witness_MemoryFramesAreAnswered_region : hostNet.InOrder (hostFrame pastEnd []) ∧ hostNet.Receives tyRmem (hostFrame pastEnd []) ∧
    fld (hostFrame pastEnd []).param 8 4 ≠ 0 ∧ fld (hostFrame pastEnd []).param 8 4 ≤ hostNet.pairPsize 64 ∧
    inDram (fld (hostFrame pastEnd []).param 0 6) 1 = false ∧ inFlash (fld (hostFrame pastEnd []).param 0 6) 1 = false := by decide
theorem witness_MemoryFramesAreAnswered_range : hostNet.InOrder (hostFrame tooLong []) ∧ hostNet.Receives tyRmem (hostFrame tooLong []) ∧
    hostNet.pairPsize 64 < fld (hostFrame tooLong []).param 8 4 := by decide
theorem witness_MemoryFramesAreAnswered_wmem : hostNet.InOrder (hostFrame lastByte [7]) ∧ hostNet.Receives tyWmem (hostFrame lastByte [7]) ∧
    (hostFrame lastByte [7]).payload.length = fld (hostFrame lastByte [7]).param 8 4 ∧
    hostNet.inVerified (fld (hostFrame lastByte [7]).param 0 6) (fld (hostFrame lastByte [7]).param 8 4) = false := by decide

/-- The host's view of window 7 of engine 23. -/
def hostWin : State := hostNet.setWindow 23 7 { st := .opn, off := 64, len := 64, wepoch := 3, engmask := 1 }
/-- P0 is linked to device 1 as a peer, with the same window open to it. -/
def peerNet : State :=
  (((up.setPort 0 { cfg := 0x7D, rate := 1 }).setPeer 1 { present := true, joined := true, joinAcked := true, psize := 1024 }).setWindow 23 7
    { st := .opn, off := 64, len := 64, wepoch := 3, devmask := 2 })
/-- A frame of device 1. -/
def peerFrame (ps : List Byte) (data : List Byte) : SkFrame := { src := 1, param := ps ++ List.replicate (24 - ps.length) 0, payload := data }
/-- Parameters of WWIN and SEND: the number, engine 23, window 7, WEPOCH 3, an offset. -/
def winParam (n off : Nat) : List Byte := leBytes 6 n ++ [23, 7] ++ leBytes 2 3 ++ leBytes 4 off

theorem witness_RemoteWritesLand_wwin : hostWin.Quiet ∧ hostWin.Healthy ∧ hostWin.InOrder (hostFrame (winParam 0 127) [9]) ∧
    wpEng (hostFrame (winParam 0 127) [9]) = 23 ∧ wpWin (hostFrame (winParam 0 127) [9]) = 7 ∧ (hostWin.eng 23).fenced = false ∧
    hostWin.Receives tyWwin (hostFrame (winParam 0 127) [9]) ∧
    (hostWin.window 23 7).admits (wpEpoch (hostFrame (winParam 0 127) [9])) true (wpOff (hostFrame (winParam 0 127) [9])) 1 = true := by decide
theorem witness_RemoteWritesLand_send : peerNet.Quiet ∧ peerNet.Healthy ∧ peerNet.InOrder (peerFrame (winParam 16383 64) [9]) ∧
    (peerNet.eng 23).fenced = false ∧ peerNet.Receives tySend (peerFrame (winParam 16383 64) [9]) ∧
    isHost (epOf (peerFrame (winParam 16383 64) [9]).src) = false ∧ (peerNet.window 23 7).devmask.getLsbD 1 = true ∧
    (peerNet.window 23 7).admits (wpEpoch (peerFrame (winParam 16383 64) [9])) true (wpOff (peerFrame (winParam 16383 64) [9])) 1 = true ∧
    (peerNet.rx 1).base.toNat ≤ fld (peerFrame (winParam 16383 64) [9]).param 0 6 ∧
    fld (peerFrame (winParam 16383 64) [9]).param 0 6 < (peerNet.rx 1).base.toNat + 16384 ∧
    Tab.get 0 (peerNet.rx 1).answers (fld (peerFrame (winParam 16383 64) [9]).param 0 6) = 0 := by decide
theorem witness_RemoteWritesLand_refused : hostWin.InOrder (hostFrame (winParam 0 128) [9]) ∧ hostWin.Receives tyWwin (hostFrame (winParam 0 128) [9]) ∧
    (hostWin.window 23 7).admits (wpEpoch (hostFrame (winParam 0 128) [9])) true (wpOff (hostFrame (winParam 0 128) [9])) 1 = false := by decide
theorem witness_RemoteWritesLand_beyond : peerNet.InOrder (peerFrame (winParam 16384 64) [9]) ∧
    peerNet.Receives tySend (peerFrame (winParam 16384 64) [9]) ∧
    (peerNet.rx 1).base.toNat + 16384 ≤ fld (peerFrame (winParam 16384 64) [9]).param 0 6 ∧
    Tab.get 0 (peerNet.rx 1).answers (fld (peerFrame (winParam 16384 64) [9]).param 0 6) = 0 := by decide
theorem witness_RemoteWritesLand_again : (peerNet.setRx 1 { base := 5 }).InOrder (peerFrame (winParam 4 64) [9]) ∧
    (peerNet.setRx 1 { base := 5 }).Receives tySend (peerFrame (winParam 4 64) [9]) ∧
    fld (peerFrame (winParam 4 64) [9]).param 0 6 < ((peerNet.setRx 1 { base := 5 }).rx 1).base.toNat := by decide

/-- A SEND frame with number 0 to device 1 waits for its answer; its tile has gone. -/
def sentNet (retry : Bool) : State :=
  peerNet.setStx 1 { next := 1, out := [{ ssn := 0, eng := 0, slot := 0, tile := 0, epoch := 1, frame := {}, retry := retry }] }
/-- Parameters of WNAK: the number and the reason. -/
def nakParam (r : Byte) : List Byte := List.replicate 12 0 ++ [r]

theorem witness_SendsAreAnswered_wack : (sentNet false).Quiet ∧ (sentNet false).Healthy ∧ (sentNet false).InOrder (peerFrame [] []) ∧
    epOf (peerFrame [] []).src < 64 ∧ ((sentNet false).sendOut 1 0).isSome = true ∧ (sentNet false).Receives tyWack (peerFrame [] []) := by decide
theorem witness_SendsAreAnswered_unawaited : peerNet.Quiet ∧ peerNet.Healthy ∧ peerNet.InOrder (peerFrame (nakParam 3) []) ∧
    peerNet.Receives tyWnak (peerFrame (nakParam 3) []) ∧ peerNet.sendOut 1 (fld (peerFrame (nakParam 3) []).param 0 6) = none := by decide
theorem witness_SendsAreAnswered_range : (sentNet false).InOrder (peerFrame (nakParam (BitVec.ofNat 8 wnRange)) []) ∧
    (sentNet false).Receives tyWnak (peerFrame (nakParam (BitVec.ofNat 8 wnRange)) []) ∧ ((sentNet false).sendOut 1 0).isSome = true ∧
    fld (peerFrame (nakParam (BitVec.ofNat 8 wnRange)) []).param 12 1 = wnRange := by decide
theorem witness_SendsAreAnswered_gone : (sentNet false).Receives tyWnak (peerFrame (nakParam (BitVec.ofNat 8 wnWindow)) []) ∧
    (sentNet false).InOrder (peerFrame (nakParam (BitVec.ofNat 8 wnWindow)) []) ∧
    fld (peerFrame (nakParam (BitVec.ofNat 8 wnWindow)) []).param 12 1 = wnWindow ∧ ((sentNet false).slot 0).used = false := by decide

/-- The frame of a SEND at work in slot 0, whose entry is 0; it may be one to send again. -/
def sendingNet (retry : Bool) : State :=
  { sentNet false with ledger := [(0, running)], mirror := [(0, running)], slots := [(0, { used := true, epoch := 1 })]
                       dram := listed (entryOf opSend 0 0 0 []) }.setStx 1
    { next := 1, out := [{ ssn := 0, eng := 0, slot := 0, tile := 0, epoch := 1, frame := { ty := 0x21 }, retry := retry }] }

theorem witness_SendsAreAnswered_window : (sendingNet false).Quiet ∧ (sendingNet false).Healthy ∧
    (sendingNet false).InOrder (peerFrame (nakParam (BitVec.ofNat 8 wnFenced)) []) ∧
    (sendingNet false).Receives tyWnak (peerFrame (nakParam (BitVec.ofNat 8 wnWindow)) []) ∧
    fld (peerFrame (nakParam (BitVec.ofNat 8 wnWindow)) []).param 12 1 = wnWindow ∧
    fld (peerFrame (nakParam (BitVec.ofNat 8 wnFenced)) []).param 12 1 = wnFenced ∧
    (cmdOf ((sendingNet false).cmdBytes ((sendingNet false).slot 0).entry.val)).tolerant = false ∧ ((sendingNet false).sendOut 1 0).isSome = true ∧
    ((sendingNet false).slot 0).used = true ∧ ((sendingNet false).slot 0).stopping = false ∧ ((sendingNet false).slot 0).epoch = 1 ∧
    ((sendingNet false).entry ((sendingNet false).slot 0).entry.val).status = 0 ∧
    (sendingNet false).cmdCont ((sendingNet false).slot 0).entry.val = false := by decide
theorem witness_SendsAreAnswered_retry : (sendingNet true).Quiet ∧
    ((sendingNet true).sendOut 1 (0 : BitVec 48).toNat).any (fun o => o.retry && !(sendingNet true).staleSend 1 o.frame) = true := by decide
theorem witness_SendsAreAnswered_forgotten : (sentNet true).Quiet ∧
    ((sentNet true).sendOut 1 (0 : BitVec 48).toNat).any (fun o => o.retry && (sentNet true).staleSend 1 { o.frame with ty := 0x21 }) = true ∧
    ((sentNet false).sendOut 1 (0 : BitVec 48).toNat).any (fun o => !o.retry) = true := by decide

/-- Two frames of host 64's pair wait for their acknowledgement. -/
def unackedNet (n : Nat) : State :=
  hostNet.modPeer 64 fun p => { p with unacked := [{ ty := 5, seq := 0 }, { ty := 5, seq := 1 }], nextSeq := 2, timeouts := n, ackOwed := 1 }
/-- An ACK up to a number. -/
def ackFrame (n : Word) : SkFrame := { hostFrame [] [] with flags := 1, ack := n }

theorem witness_PairTimers_ack : (unackedNet 0).Quiet ∧ (unackedNet 0).Receives tyAck (ackFrame 1) ∧ ((unackedNet 0).peer 64).joined = true ∧
    ((unackedNet 0).peer 64).bepoch = (ackFrame 1).bepoch ∧ ((unackedNet 0).peer 64).lgen = (ackFrame 1).lgen ∧
    bitOf (ackFrame 1).flags.toNat 0 = true ∧ ((unackedNet 0).peer 64).waiting = [] ∧
    (((unackedNet 0).peer 64).unacked.any fun x => seqBefore x.seq (ackFrame 1).ack) = true ∧
    (((unackedNet 0).peer 64).unacked.all fun x => x.ty.toNat != tyCpl && x.ty.toNat != tyJoin) = true := by decide
theorem witness_PairTimers_timers : (unackedNet 6).Quiet ∧ (unackedNet 6).NetActive ∧ (unackedNet 6).Sends ((unackedNet 6).peer 64).port.toNat ∧
    ((unackedNet 6).port ((unackedNet 6).peer 64).port.toNat).carries = true ∧ 0 < ((unackedNet 6).peer 64).ackOwed ∧
    ((unackedNet 6).peer 64).unacked ≠ [] ∧ ((unackedNet 6).peer 64).timeouts < 7 ∧
    (∀ x ∈ ((unackedNet 6).peer 64).unacked, x.port.val = ((unackedNet 6).peer 64).port.toNat) := by decide
/-- The gate of class 0 at P0 is closed. -/
def gatedNet : State := (unackedNet 0).modPort 0 fun p => { p with gates := 0xFE }

theorem witness_PairTimers_gate : gatedNet.Quiet ∧ gatedNet.NetActive ∧ (gatedNet.port (gatedNet.peer 64).port.toNat).carries = true ∧
    0 < (gatedNet.peer 64).ackOwed ∧ (gatedNet.port 0).gates.getLsbD (bitsOf (gatedNet.port 0).cfg.toNat 26 24) = false ∧
    gatedNet.packetBytes + 70 ≤ 4194304 := by decide
theorem witness_PairTimers_down : (unackedNet 7).Quiet ∧ (unackedNet 7).NetActive ∧
    ((unackedNet 7).port ((unackedNet 7).peer 64).port.toNat).carries = true ∧ ((unackedNet 7).peer 64).unacked ≠ [] ∧
    7 ≤ ((unackedNet 7).peer 64).timeouts ∧ (isHost 64 = true ∨ ((unackedNet 7).stx 64).out = []) ∧ ((unackedNet 7).peer 64).present = true ∧ ((unackedNet 7).peer 64).down = false := by
  decide

/-- A JOIN request of device 1, and its HELLO, before anything is known of it. -/
def newNet : State := peerNet.setPeer 1 {}
def joinReq : SkFrame := { peerFrame [0, 1, 0, 4] [] with flags := 2, bepoch := 7, lgen := 2, seq := 10 }

theorem witness_EndpointsAreMet_join : newNet.Quiet ∧ newNet.Healthy ∧ epOf joinReq.src ≠ newNet.dev.id.toNat ∧ newNet.Receives tyJoin joinReq ∧
    bitOf joinReq.flags.toNat 1 = true ∧ bitOf joinReq.flags.toNat 0 = false ∧ fld joinReq.param 0 1 = 0 ∧ isHost (epOf joinReq.src) = false ∧
    fld joinReq.param 1 1 = 1 := by decide
/-- The same of host 65. -/
def hostJoin : SkFrame := { joinReq with src := 0x41 }

theorem witness_EndpointsAreMet_host : hostNet.Quiet ∧ hostNet.Healthy ∧ epOf hostJoin.src ≠ hostNet.dev.id.toNat ∧
    hostNet.Receives tyJoin hostJoin ∧ bitOf hostJoin.flags.toNat 1 = true ∧ isHost (epOf hostJoin.src) = true ∧
    (∀ r ∈ hostNet.ledger, (hostNet.entry r.1).st ≠ .posted) := by decide
theorem witness_EndpointsAreMet_hello : newNet.Receives tyHello (peerFrame [] []) ∧ newNet.peer (epOf (peerFrame [] []).src) = {} := by decide

theorem witness_LinkNotices_hello : peerNet.Quiet ∧ peerNet.NetActive ∧ (peerNet.port 0).role ≠ 1 ∧ peerNet.Sends 0 := by decide
theorem witness_LinkNotices_lost : peerNet.Healthy ∧ peerNet.BookRoom ∧ (peerNet.peer 1).present = true ∧ (peerNet.stx 1).out = [] := by decide

/-- An enabled interrupt is due, with a host partner on P0. -/
def dueNet : State := { hostNet with dev := { hostNet.dev with irqDue := true, irqstat := 1, irqen := 1 } }.modPort 0 fun p => { p with partner := some 64 }

theorem witness_LinkNotices_due : dueNet.Quiet ∧ dueNet.NetActive ∧ dueNet.dev.irqDue = true ∧ dueNet.dev.irqstat &&& dueNet.dev.irqen ≠ 0 ∧
    dueNet.hostPartners ≠ [] ∧ 64 ∈ dueNet.hostPartners ∧ dueNet.Sends (dueNet.peer 64).port.toNat := by decide

/-! ## Witnesses: the block, frames and links -/

theorem witness_StepRunsFrontCommand : ({ up with pending := [.watchRun, .trstN] } : State).pending = .watchRun :: [.trstN] ∧ up.pending = [] := by
  decide
theorem witness_LifeNeverGoesBack : State.reset.LifecycleLegal ∧ step State.reset = .next State.reset := ⟨by decide, rfl⟩

/-- A classifier whose first rule directs the frames of port 7 to stream 15, and that stream's record: one slot of 128 bytes at 0x8000. -/
def oneRule (src : Nat) : Mem :=
  Mem.setBytes 0 (Mem.setBytes 0 [] 0 ([1, 0x80] ++ leBytes 18 0 ++ [2, 15, 64])) 16352
    (leBytes 1 (1 + 2 * src) ++ [0] ++ leBytes 6 0x8000 ++ [0, 0] ++ leBytes 2 2 ++ leBytes 2 0)
/-- P7 is a linked SENSOR port under that classifier. -/
def sensorNet (src : Nat) : State :=
  { up.setPort 7 { cfg := 0x7B, rate := 1 } with tables := [(4, { expert := true, active := oneRule src })] }
def avtpFrame : AvtpFrame := { sid := 9, aafh := List.replicate 16 0, payload := List.replicate 64 5 }
def avtpEth : EthFrame := { port := 7, etype := 0x22F0, len := 120, body := .avtp avtpFrame }
def streamSk : SkFrame := { port := 7, ty := BitVec.ofNat 8 tyStream, param := 9 :: List.replicate 23 0, payload := List.replicate 64 5 }
def streamEth : EthFrame := { port := 7, etype := 0x88B5, len := 120, body := .skouk streamSk }

theorem witness_FramesReachTheirPlace_aaf : (sensorNet 0).Quiet ∧ avtpEth.body = .avtp avtpFrame ∧ avtpFrame.aaf = true ∧
    ((sensorNet 0).port avtpEth.port.val).role = 1 ∧ (sensorNet 0).StreamTakes avtpEth 15 0 0 ∧
    (sensorNet 0).slotFits ((sensorNet 0).streamRec 15) avtpFrame.payload.length = true ∧
    (sensorNet 0).slotWritable ((sensorNet 0).streamRec 15) = true := by decide +kernel
theorem witness_FramesReachTheirPlace_stream : (sensorNet 1).Quiet ∧ streamEth.body = .skouk streamSk ∧ streamSk.ty.toNat = tyStream ∧
    ((sensorNet 1).skAdmits streamSk true).1 = true ∧ (sensorNet 1).StreamTakes streamEth 15 0 1 ∧
    (sensorNet 1).slotFits ((sensorNet 1).streamRec 15) streamSk.payload.length = true ∧
    (sensorNet 1).slotWritable ((sensorNet 1).streamRec 15) = true := by decide +kernel

/-- P0 and P7 are linked trunks; the station 5 was seen on P7. -/
def trunkNet : State :=
  { (up.setPort 0 { cfg := 0x7F, rate := 1 }).setPort 7 { cfg := 0x7F, rate := 1 } with market := { learned := [(5, 0, 7)] } }
def trunkEth : EthFrame := { dmac := 5, smac := 6, len := 1522 }

theorem witness_FramesReachTheirPlace_bridged : trunkNet.Quiet ∧ trunkNet.NetActive ∧ (trunkNet.port trunkEth.port.val).en = true ∧
    (trunkNet.port trunkEth.port.val).rate ≠ 0 ∧ trunkEth.fcsOk = true ∧ trunkEth.len ≤ (trunkNet.port trunkEth.port.val).maxLen ∧
    bitOf (trunkNet.port trunkEth.port.val).cfg.toNat 8 = false ∧ trunkEth.etype ≠ 0x888E ∧ trunkEth.etype ≠ 0x88F7 ∧
    (trunkNet.table 4).expert = false ∧ trunkEth.dmac ≠ trunkNet.ownMac ∧ trunkEth.dmac ≠ trunkNet.groupMac ∧
    (trunkNet.port trunkEth.port.val).role = 3 ∧
    (trunkNet.market.learned.find? fun x => x.1 == trunkEth.dmac && x.2.1 == trunkEth.vid) = some (5, 0, 7) ∧ (7 : Fin 8) ≠ trunkEth.port ∧
    (trunkNet.port 7).role = 3 ∧ trunkNet.Opens 7 trunkEth.pcp.toNat := by decide
theorem witness_FramesReachTheirPlace_flooded : (7 : Fin 8) ≠ { trunkEth with dmac := 9 }.port ∧
    (trunkNet.market.learned.find? fun x => x.1 == { trunkEth with dmac := 9 }.dmac && x.2.1 == { trunkEth with dmac := 9 }.vid) = none ∧
    { trunkEth with dmac := 9 }.dmac ≠ trunkNet.ownMac ∧ { trunkEth with dmac := 9 }.dmac ≠ trunkNet.groupMac ∧
    trunkNet.Opens 7 { trunkEth with dmac := 9 }.pcp.toNat := by decide

theorem witness_LinksTimeAndTriggers_up : (up.setPort 7 { cfg := 0x79 }).Quiet ∧ (up.setPort 7 { cfg := 0x79 }).NetActive ∧
    ((up.setPort 7 { cfg := 0x79 }).port 7).en = true ∧ ((up.setPort 7 { cfg := 0x79 }).port 7).downf = false ∧
    ((up.setPort 7 { cfg := 0x79 }).port 7).rate = 0 ∧ linkRate ((up.setPort 7 { cfg := 0x79 }).port 7).cfg.toNat 7 ≠ 0 := by decide
theorem witness_LinksTimeAndTriggers_down : hostNet.Quiet ∧ hostNet.Healthy ∧ (hostNet.port 0).rate ≠ 0 := by decide
theorem witness_LinksTimeAndTriggers_time : up.Quiet ∧ up.NetActive := by decide

/-- P7 runs a gate control list of two entries. -/
def gatesNet : State := { up with tables := [(23, { expert := true, active := Mem.setBytes 0 [] 18 [2, 0] })] }

theorem witness_LinksTimeAndTriggers_gates : gatesNet.Quiet ∧ gatesNet.NetActive ∧ (gatesNet.table (16 + 7)).commit = false ∧
    (gatesNet.table (16 + 7)).expert = true := by decide

/-- A triggered submission of stream 15, bound to queue 15, waits. -/
def triggerNet : State :=
  { hostNet.setQueue 15 { en := true, sbind := true, stream := 15 } with streams := [(15, { retry := [3] })] }

theorem witness_LinksTimeAndTriggers_retry : triggerNet.Quiet ∧ triggerNet.Healthy ∧ triggerNet.NetActive ∧ triggerNet.sec.reeveHalted = false ∧
    triggerNet.boundQueue 15 = some 15 ∧ (triggerNet.stream 15).retry = [3] ∧
    triggerNet.admission 15 (some (triggerNet.dev.id, false, BitVec.ofNat 64 (15 * 2 ^ 56 + 3 % 2 ^ 56))) = .accept ∧
    (Tab.get {} triggerNet.ledger 0).st = .free := by decide

/-! ## Witnesses: faults and the Parish Book -/

theorem witness_ReportsAreHandled_log : up.Quiet ∧ up.Healthy ∧ up.BookRoom ∧ up.dev.pstate ≠ psOff ∧ up.BellCalm := by decide
theorem witness_ReportsAreHandled_halt : up.dev.pstate = psActive ∧ up.dev.bootok = true ∧ up.dev.halted = false ∧
    up.bell.fltsum &&& fsXset = 0 ∧ (∀ n, n < 24 → ∀ c ∈ (up.eng n).claims, c.phase = .compute → c.computed = true) := by decide
theorem witness_ReportsAreHandled_plough : (tileAt .load).Quiet ∧ (tileAt .load).Healthy ∧ (tileAt .load).dev.pstate = psActive ∧
    (tileAt .load).dev.bootok = true ∧ (tileAt .load).dev.halted = false ∧ (tileAt .load).BellCalm ∧ ((tileAt .load).eng 23).fenced = false ∧
    ((tileAt .load).eng 23).testing = false ∧
    (((tileAt .load).eng 23).claims.find? fun c => c.phase != .claimed) = some (tile0 .load) ∧ ((tile0 .load).phase = .compute → (tile0 .load).computed = true) := by decide

/-- A fault state whose units are all good, with the quiet timer at its end. -/
def calmFault : State :=
  up.modBell fun b => { b with fstate := .fault, quietRunning := true, count := 7, reactions := [⟨0x10, 0, 1, 1, true⟩] }

theorem witness_FaultStateIsLeft_quiet : calmFault.Quiet ∧ calmFault.BookRoom ∧ calmFault.bell.quietRunning = true ∧
    calmFault.bell.autoexit = true ∧ calmFault.bell.fstate = .fault ∧ calmFault.dev.halted = false ∧
    (∀ n, n < 24 → (calmFault.eng n).fenced = false) ∧ (∀ n, n < 64 → (calmFault.slice n).disabled = false) ∧ calmFault.NoHeld ∧
    calmFault.dev.pstate = psActive ∧ calmFault.dev.bootok = true ∧ calmFault.power.inhibit = false := by decide
theorem witness_FaultStateIsLeft_normal : up.Quiet ∧ up.BookRoom ∧ up.canWrite .bus 0x1B = true ∧ up.bell.fstate = .normal := by decide
theorem witness_FaultStateIsLeft_asked : calmFault.canWrite (.port 0) 0x1B = true ∧ calmFault.bell.fstate ≠ .normal ∧
    calmFault.bell.count ≠ calmFault.bell.limit := by decide

/-- In FAULT with engine 23 fenced, or halted. -/
def faultNet (halted : Bool) : State :=
  { calmFault with dev := { calmFault.dev with halted := halted } }.modEng 23 fun e => { e with fenced := true }

theorem witness_FaultStateIsLeft_tests : (faultNet false).Quiet ∧ (faultNet false).BookRoom ∧ (faultNet false).canWrite .bus 0x1B = true ∧
    (faultNet false).bell.fstate ≠ .normal ∧ (faultNet false).dev.halted = false ∧ ((faultNet false).eng 23).fenced = true ∧
    ((faultNet false).eng 23).retired = false ∧ ((faultNet false).eng 23).testing = false := by decide
theorem witness_FaultStateIsLeft_halted : (faultNet true).Quiet ∧ (faultNet true).BookRoom ∧ (faultNet true).canWrite .bus 0x1B = true ∧
    (faultNet true).bell.fstate ≠ .normal ∧ (faultNet true).dev.halted = true := by decide

/-- Engine 23 and slice 63 are under test. -/
def testing : State :=
  (up.modEng 23 fun e => { e with fenced := true, testing := true }).modSlice 63 fun x => { x with testing := true, disabled := true }
def fenced : State := up.modEng 23 fun e => { e with fenced := true }

theorem witness_UnitsAreReadmitted_engine : testing.Quiet ∧ (testing.eng 23).testing = true ∧ (testing.eng 23).claims = [] ∧ (5 : Fin 6) ≠ 0 ∧ testing.BookRoom := by decide
theorem witness_UnitsAreReadmitted_slice : testing.Quiet ∧ (testing.slice 63).testing = true ∧ testing.BookRoom := by decide
theorem witness_UnitsAreReadmitted_enabled : (up.modDev fun d => { d with dis := 1 }).Quiet ∧ (up.modDev fun d => { d with dis := 1 }).Healthy ∧
    (up.modDev fun d => { d with dis := 1 }).canWrite .bus 0x17 = true ∧ up.dev.dis &&& ~~~ 1 = 0 := by decide
theorem witness_UnitsAreReadmitted_asked : fenced.Quiet ∧ fenced.canWrite .bus 0x17 = true ∧ (23 : BitVec 5).toNat < 24 ∧
    (fenced.eng (23 : BitVec 5).toNat).fenced = true ∧ (fenced.eng (23 : BitVec 5).toNat).testing = false := by decide

/-- Two records wait, under a flush or not. -/
def twoRecs (flushing : Bool) : State :=
  up.modBook fun b => { b with buf := [{ code := 0x0101 }, { code := 0x0102 }], flushing := flushing, regn := 16382 }

theorem witness_ParishBook_flush : (twoRecs false).Quiet ∧ (twoRecs false).canWrite .bus 0x1F = true ∧ (twoRecs false).power.inhibit = false ∧
    (twoRecs false).book.erasing = false ∧ (twoRecs false).book.flushing = false ∧ (twoRecs false).book.buf ≠ [] ∧
    (twoRecs false).book.full = false := by decide
theorem witness_ParishBook_clear : ((twoRecs false).modSec fun c => { c with clrauth := true }).sec.clrauth = true ∧
    ((twoRecs false).modSec fun c => { c with clrauth := true }).canWrite .bus 0x1F = true ∧ (twoRecs false).sec.clrauth = false ∧
    (twoRecs false).BookRoom := by decide
theorem witness_ParishBook_programmed : (twoRecs true).Quiet ∧ (twoRecs true).book.flushing = true ∧
    (twoRecs true).book.buf = { code := 0x0101 } :: { code := 0x0102 } :: [] ∧ (twoRecs true).book.regn < 16383 ∧
    (twoRecs true).book.dropped = 0 := by decide
theorem witness_ParishBook_erased : (up.modBook fun b => { b with erasing := true, regn := 16384, full := true }).Quiet ∧
    (up.modBook fun b => { b with erasing := true, regn := 16384, full := true }).book.erasing = true ∧
    (up.modBook fun b => { b with erasing := true, regn := 16384, full := true }).book.buf = [] := by decide
theorem witness_ParishBook_window : up.canWrite .bus 0x1E = true ∧ up.canRead .bus = true ∧
    (up.modBook fun b => { b with ainc := true }).book.ainc = true ∧ (up.modBook fun b => { b with ainc := true }).canRead .bus = true := by decide

/-! ## Witnesses: tables and registers -/

/-- The bus path at the last word of the reaction table; an action byte of the staging copy may be illegal. -/
def reactAt (bad : Bool) : State :=
  { up.modCtx .bus (fun c => { c with sel := 1, tbladdr := 255, ainc := true }) with
    tables := if bad then [(1, { staging := [(8, some 0xFF)] })] else [] }

theorem witness_ReactionTableIsEdited_good : (reactAt false).Quiet ∧ (reactAt false).canRead .bus = true ∧
    (reactAt false).canWrite .bus 0x38 = true ∧ (reactAt false).canWrite .bus 0x36 = true ∧ ((reactAt false).table 1).commit = false ∧
    ((reactAt false).ctx .bus).sel = 1 ∧ 4 * ((reactAt false).ctx .bus).tbladdr.toNat + 4 ≤ 1024 ∧
    reactOk (fun x => (((reactAt false).table 1).stagingByte 1 x).toNat) = true := by decide +kernel
theorem witness_ReactionTableIsEdited_bad : (reactAt true).Quiet ∧ (reactAt true).canRead .bus = true ∧
    (reactAt true).canWrite .bus 0x38 = true ∧ (reactAt true).canWrite .bus 0x36 = true ∧ ((reactAt true).table 1).commit = false ∧
    ((reactAt true).ctx .bus).sel = 1 ∧ reactOk (fun x => (((reactAt true).table 1).stagingByte 1 x).toNat) = false := by decide +kernel

/-- The high half of SCRATCH waits in the holding register. -/
def halfWritten : State := up.modCtx .bus fun c => { c with hold := some (0x3B, 0x1234) }

theorem witness_RegistersAreWritten_words : up.Quiet ∧ up.canWrite .onchip 0x3B = true ∧ up.canWrite .bus 0x3B = true ∧
    halfWritten.canWrite .bus (0x3F : BitVec 6).toNat = true ∧ halfWritten.canWrite .bus 0x3B = true ∧ (halfWritten.ctx .bus).hold = some (0x3B, 0x1234) ∧ up.canRead .bus = true ∧
    up.canWrite (.port 7) 0x06 = true ∧ up.canWrite .bus 0x07 = true ∧ up.canWrite .bus 0x1A = true := by decide
theorem witness_RegistersAreWritten_high : (up.modCtx .bus fun c => { c with snap := some (0x3F, 5) }).Quiet ∧
    (up.modCtx .bus fun c => { c with snap := some (0x3F, 5) }).canRead .bus = true ∧
    ((up.modCtx .bus fun c => { c with snap := some (0x3F, 5) }).ctx .bus).snap = some (0x3F, 5) := by decide
theorem witness_RegistersAreWritten_portcfg : (up.modCtx .bus fun c => { c with portsel := 0 }).canWrite .bus 0x2A = true ∧
    (up.ctx .bus).portsel.toNat < 8 ∧ (up.port (up.ctx .bus).portsel.toNat).en = true ∧ bitOf (0x7F : Word).toNat 0 = true := by decide
theorem witness_RegistersAreWritten_fltinj : up.canWrite .bus 0x1D = true ∧ up.sec.lc = 0x3 ∧ bitsOf (0x00FF0171 : Word).toNat 3 0 = 1 ∧
    bitsOf (0x00FF0171 : Word).toNat 9 4 < 24 ∧ bitsOf (0x00FF0171 : Word).toNat 23 16 ≠ 0 ∧ up.BookRoom ∧
    (up.modSec fun c => { c with lc := 0x5 }).canWrite .bus 0x1D = true := by decide

/-! ## Witnesses: device control, resets and power -/

theorem witness_DeviceIsControlled_words : up.Quiet ∧ up.canWrite .bus 0x04 = true ∧ up.NoHeld ∧ up.dev.pstate = psActive ∧ up.sec.lc = 0x3 ∧
    up.dev.bootok = true ∧ up.power.wrstReq = none := by decide
theorem witness_DeviceIsControlled_idle : (up.modDev fun d => { d with pstate := psIdle }).canWrite .bus 0x04 = true ∧
    (up.modDev fun d => { d with pstate := psIdle }).dev.pstate = psIdle ∧ (up.modDev fun d => { d with pstate := psIdle }).NoHeld ∧
    (up.modDev fun d => { d with pstate := psIdle }).Healthy ∧ 2 ≤ (3 : BitVec 2).toNat := by decide
theorem witness_DeviceIsControlled_pin : up.pins.thermtrip = false ∧ (1000 : Nat) ≤ 1000 ∧ (99 : Nat) < 100 := by decide

/-- A warm reset is asked for, with a window open and a tile at work. -/
def resetDue : State := (winJob 1).modPower fun w => { w with wrstReq := some 1 }
/-- The warm reset has been made. -/
def recovering : State := { up with power := { up.power with recovering := true }, dev := { up.dev with rdone := false } }

theorem witness_ResetsKeepAndLose_warm : resetDue.Quiet ∧ resetDue.Healthy ∧ Tab.wf {} resetDue.engines = true ∧
    resetDue.power.wrstReq = some 1 ∧ resetDue.dev.pstate = psActive ∧ resetDue.dev.bootok = true ∧ resetDue.pins.thermtrip = false ∧
    resetDue.sec.busy = false ∧ resetDue.bell.lostTables = [] ∧ (resetDue.eng 0).inPhase .compute = none := by decide
theorem witness_ResetsKeepAndLose_recovery : recovering.Quiet ∧ recovering.Healthy ∧ recovering.power.recovering = true ∧
    recovering.dev.bootok = true ∧ recovering.dev.pstate = psActive ∧ recovering.pins.thermtrip = false ∧ recovering.ledger = [] ∧
    recovering.mirror = [] ∧ recovering.jobs = [] ∧ (∀ q, q < 32 → (recovering.queue q).en = false) ∧ (recovering.table 4).expert = false := by
  decide
theorem witness_ResetsKeepAndLose_porst : up.book.flushing = false ∧ up.book.erasing = false ∧ State.reset.power.inhibit = false ∧
    State.reset.power.brownout = false := by decide

/-- STANDBY or WATCH has been asked for. -/
def asked (v : BitVec 2) : State := up.modPower fun w => { w with request := some v }
/-- A part in STANDBY with every wake source enabled, a timer that runs and P7 enabled for TC10. -/
def asleep : State :=
  ((up.modDev fun d => { d with pstate := psStandby }).modPower fun w => { w with wtimer := 1 }).setPort 7 { cfg := 0x279 }
/-- The restore from STANDBY at a position. -/
def restoring (pos : Nat) : State :=
  (up.modDev fun d => { d with pstate := psRestoring }).modPower fun w => { w with restoreFrom := psStandby, restorePos := pos }

theorem witness_PowerStatesChange_entry : (asked 2).Quiet ∧ (asked 2).Healthy ∧ (asked 2).dev.pstate = psActive ∧ (asked 2).slotsFree = true ∧
    (asked 2).sec.debug = 0 ∧ (asked 2).sec.attestWait = false ∧ (asked 2).psblk = 0 ∧ (asked 2).NoHeld ∧ (asked 2).power.request = some 2 := by decide
theorem witness_PowerStatesChange_watch : (asked 3).Quiet ∧ (asked 3).Healthy ∧ (asked 3).dev.pstate = psActive ∧ (asked 3).slotsFree = true ∧
    (asked 3).sec.debug = 0 ∧ (asked 3).sec.attestWait = false ∧ (asked 3).psblk = 0 ∧ (asked 3).NoHeld ∧ (asked 3).power.request = some 3 := by decide
theorem witness_PowerStatesChange_wake : asleep.Quiet ∧ asleep.dev.pstate = psStandby ∧ asleep.NoHeld ∧ asleep.power.wakeen.getLsbD wkPin = true ∧
    asleep.power.wtimer ≠ 0 ∧ asleep.power.wakeen.getLsbD wkTimer = true ∧ (asleep.port 7).en = true ∧
    bitOf (asleep.port 7).cfg.toNat 9 = true ∧ asleep.power.wakeen.getLsbD wkTc10 = true := by decide
theorem witness_PowerStatesChange_restore : (restoring 9).Quiet ∧ (restoring 9).dev.pstate = psRestoring ∧
    (restoring 9).power.restoreFrom = psStandby ∧ (restoreEntries false)[(restoring 4).power.restorePos]? = some 9 ∧
    (restoreEntries false)[(restoring 9).power.restorePos]? = some 14 := by decide
theorem witness_PowerStatesChange_last : (restoreEntries false)[(restoring 10).power.restorePos]? = some 15 ∧ (restoring 10).Healthy ∧ (restoring 10).NoHeld ∧
    (∀ k, k < 128 → ((restoring 10).peer k).heldReqs = []) ∧ (restoring 10).power.lateReq = none ∧ (restoring 10).power.debugOnly = false ∧
    ((restoring 10).table 2).commit = false ∧ (restoring 10).sec.attestWait = false := by decide

theorem witness_SuppliesFailAndReturn_rail : up.Quiet ∧ up.Healthy ∧ (8 : BitVec 4) ≠ 0 ∧ up.dev.pstate = psActive ∧ up.BookRoom ∧
    up.sec.debug = 0 ∧ (up.modDev fun d => { d with pstate := psWatch }).dev.pstate = psWatch := by decide
theorem witness_SuppliesFailAndReturn_fail : up.book.pfailArmed = true ∧ up.book.full = false ∧ up.book.erasing = false ∧
    up.book.flushing = false ∧ up.power.inhibit = false ∧ up.power.pfail = false ∧ up.power.belowPF = false := by decide

/-- PFAIL_N is low and the inhibit is set. -/
def inhibited : State := up.modPower fun w => { w with pfail := true, inhibit := true, belowPF := true }
/-- The Hearth is below its minimum. -/
def browned : State := up.modPower fun w => { w with brownout := true }

theorem witness_SuppliesFailAndReturn_return : inhibited.Quiet ∧ inhibited.power.pfail = true ∧ inhibited.power.inhibit = true ∧
    inhibited.power.bootHeld = false ∧ inhibited.power.nvCut = none ∧ inhibited.book.buf = [] := by decide
theorem witness_SuppliesFailAndReturn_hearth : browned.power.brownout = true ∧ browned.power.inhibit = false ∧ browned.book.regn < 16383 ∧
    browned.book.erasing = false := by decide

/-- The 99 estimates before were low, and ceilings stand above the least. -/
def lowRuns : State := up.modPower fun w => { w with lowRun := 99, powerCeil := 11 }

theorem witness_LimitsAreHeld_estimate : lowRuns.Quiet ∧ lowRuns.Healthy ∧ lowRuns.dev.pstate = psActive ∧ lowRuns.pins.thermtrip = false ∧
    profileLimit lowRuns.dev.profile.toNat < profileLimit lowRuns.dev.profile.toNat + 1 ∧ 10 < lowRuns.power.powerCeil ∧
    10 * 0 ≤ 12 * profileLimit lowRuns.dev.profile.toNat ∧ 100 * 0 < 95 * profileLimit lowRuns.dev.profile.toNat ∧ 99 ≤ lowRuns.power.lowRun ∧
    lowRuns.BookRoom := by decide
/-- Whatever the grade, 110 °C reaches its throttle threshold and 97 °C lies 3 °C below it. -/
theorem witness_LimitsAreHeld_temperature : (if Config.gradeX then 110 else 100) ≤ (110 : Int) ∧ (97 : Int) + 3 ≤ (if Config.gradeX then 110 else 100) := by
  cases Config.gradeX <;> decide

/-! ## Witnesses: the Watch, inputs and security -/

theorem witness_WatchAndInputs_run : ({ up with power := { up.power with wen := true }, watch := { up.watch with active := true } } : State).Quiet ∧
    ({ up with power := { up.power with wen := true }, watch := { up.watch with active := true } } : State).power.wen = true ∧
    ({ up with power := { up.power with wen := true }, watch := { up.watch with active := true } } : State).watch.active = true ∧
    ({ up with power := { up.power with wen := true }, watch := { up.watch with active := true } } : State).NoHeld := by decide

/-- TDM input 3 captures its slot 7, SPI controller 1 words of 32 bytes, and stream 15 may take one of them. -/
def auxNet (src : Nat) : State :=
  { (up.setPort 11 { cfg := 0x8001, sync := true }).setPort 13 { cfg := 0x201F09 } with
    tables := if src = 0 then [] else [(4, { expert := true, active := Mem.setBytes 0 [] 16352 [BitVec.ofNat 8 (1 + 2 * src), if src = 2 then 3 else 1] })] }

theorem witness_WatchAndInputs_tdm : (auxNet 0).Quiet ∧ (auxNet 0).capturing (8 + 3) = true ∧ (auxNet 0).dev.pstate ≠ psOff ∧
    (auxNet 0).auxStreams 2 3 = [] ∧ 7 ∈ tdmSlots ((auxNet 0).port (8 + 3)).cfg.toNat := by decide
theorem witness_WatchAndInputs_spi : (auxNet 0).capturing (12 + 1) = true ∧
    (List.replicate 32 (1 : Byte)).length = bitsOf ((auxNet 0).port (12 + 1)).cfg.toNat 12 8 + 1 ∧ (auxNet 0).auxStreams 3 1 = [] ∧
    15 < (spiWords (List.replicate 32 1)).length := by decide
theorem witness_WatchAndInputs_loss : (auxNet 2).Quiet ∧ (auxNet 2).Healthy ∧ (auxNet 2).BellCalm ∧ (auxNet 2).dev.pstate ≠ psOff ∧
    ((auxNet 2).stream 15).stopped = false ∧ (auxNet 2).capturing (8 + 3) = true ∧ ((auxNet 2).port (8 + 3)).sync = true ∧
    (auxNet 2).auxStreams 2 3 = [15] := by decide +kernel
theorem witness_WatchAndInputs_timeout : (auxNet 3).Quiet ∧ (auxNet 3).BellCalm ∧ ((auxNet 3).stream 15).stopped = false ∧
    (auxNet 3).capturing (12 + 1) = true ∧ (auxNet 3).auxStreams 3 1 = [15] := by decide +kernel

/-- A token of UID 0 in the security buffer, in a lifecycle state, under a nonce of the latest time. The owner's key is the empty one. -/
def tokenState (lc : BitVec 4) (purpose signer : Byte) (payload : List Byte) : State := up.modSec fun c => { c with
  lc := lc, nonce := some (0, BitVec.allOnes 64), ownerKey := some [], okh := some (Config.sha256 [])
  secbuf := Mem.setBytes 0 (Mem.setBytes 0 [] 0 [1, purpose, signer]) 56 payload }
/-- That token as an operation reads it. -/
abbrev tokenOf (s : State) (op : Nat) : Token := (s.begun op).token 0

/-- A token that meets the tests of R693 and R694 fails none. -/
theorem tokenFails_good {s : State} {t : Token} {ps : List Nat} {k : List Byte}
    (hf : t.version = 1 ∧ t.rsv = 0 ∧ t.signer ≤ 1 ∧ leNat (t.payload.drop (payloadUsed t.purpose)) = 0) (hu : t.uid = Config.uid.toNat)
    (hn : s.sec.nonce = some (t.nonce, BitVec.allOnes 64)) (hk : s.tokenKey t = some k) (hv : Config.slhVerify k t.body t.sig = true)
    (hp : (ps.contains t.purpose && signerOk s.sec.lc.toNat t.purpose t.signer) = true) : s.tokenFails t ps = [] := by
  obtain ⟨h1, h2, h3, h4⟩ := hf
  have hb : s.now ≤ (BitVec.allOnes 64).toNat + 60000000000 := Nat.le_trans (Nat.le_of_lt (BitVec.isLt _)) (by decide)
  simp only [State.tokenFails, hn, hk, hv, hp, h1, h2, h4, hu, decide_eq_true hb]
  simp; omega

/-- The key of a token that the vendor signs, and of one that the owner signs in FIELD. -/
theorem tokenKey_ven {s : State} {t : Token} (h : t.signer = 0) : s.tokenKey t = some Config.vendorKey := by simp [State.tokenKey, h]
theorem ownerKeyNow_empty (lc : BitVec 4) (p g : Byte) (l : List Byte) (op : Nat) : ((tokenState lc p g l).begun op).ownerKeyNow = some [] := by
  simp [State.ownerKeyNow, tokenState, State.begun, State.modSec]

/-- A part without a nonce fails every token. -/
theorem tokenFails_none {s : State} {t : Token} {ps : List Nat} (h : s.sec.nonce = none) : s.tokenFails t ps ≠ [] := by
  simp [State.tokenFails, h]

theorem witness_TokensGuardOperations : up.Quiet ∧ up.MayOperate .bus ∧ up.MayOperate .tap ∧ up.MayOperate (.port 0) ∧
    (up.windows.any fun w => w.2.st != .closed) = false ∧ (up.engines.any fun e => !e.2.claims.isEmpty) = false := by decide
/-- Every test list of the statement is not empty at `up`, whose part has no nonce. -/
theorem witness_TokensGuardOperations_fails (op : Nat) (ps more : List Nat) : (up.begun op).tokenFails (tokenOf up op) ps ++ more ≠ [] := by
  have h : (up.begun op).tokenFails (tokenOf up op) ps ≠ [] := tokenFails_none rfl
  simp [h]

theorem witness_TokensGuardOperations_bookclr (hu : Config.uid = 0) (hv : Config.slhVerify Config.vendorKey (tokenOf (tokenState 3 11 0 []) 11).body
    (tokenOf (tokenState 3 11 0 []) 11).sig = true) : (tokenState 3 11 0 []).Quiet ∧ (tokenState 3 11 0 []).MayOperate .bus ∧
    ((tokenState 3 11 0 []).begun 0x0B).tokenFails (tokenOf (tokenState 3 11 0 []) 0x0B) [11] = [] :=
  ⟨by decide, by decide, tokenFails_good (by decide +kernel) (by rw [hu]; decide +kernel) (by decide +kernel) (tokenKey_ven (by decide +kernel)) hv (by decide +kernel)⟩

theorem witness_TokensGuardOperations_policy (hu : Config.uid = 0) (hv : Config.slhVerify [] (tokenOf (tokenState 5 10 1 [3]) 10).body
    (tokenOf (tokenState 5 10 1 [3]) 10).sig = true) : (tokenState 5 10 1 [3]).Quiet ∧ (tokenState 5 10 1 [3]).MayOperate .bus ∧
    ((tokenState 5 10 1 [3]).begun 0x0A).tokenFails (tokenOf (tokenState 5 10 1 [3]) 0x0A) [10] = [] ∧
    fld ((tokenState 5 10 1 [3]).token 0).payload 0 8 = 3 ∧ (tokenState 5 10 1 [3]).nvBlocked = false :=
  ⟨by decide, by decide, tokenFails_good (by decide +kernel) (by rw [hu]; decide +kernel) (by decide +kernel)
    ((by rw [← ownerKeyNow_empty 5 10 1 [3] 0x0A]; rfl)) hv (by decide +kernel), by decide +kernel, by decide⟩

theorem witness_TokensGuardOperations_setcak (hu : Config.uid = 0) (hv : Config.slhVerify Config.vendorKey (tokenOf (tokenState 3 9 0 (List.replicate 48 0 ++ [16])) 9).body
    (tokenOf (tokenState 3 9 0 (List.replicate 48 0 ++ [16])) 9).sig = true) :
    (tokenState 3 9 0 (List.replicate 48 0 ++ [16])).Quiet ∧ (tokenState 3 9 0 (List.replicate 48 0 ++ [16])).MayOperate .bus ∧
    ((tokenState 3 9 0 (List.replicate 48 0 ++ [16])).begun 9).tokenFails (tokenOf (tokenState 3 9 0 (List.replicate 48 0 ++ [16])) 9) [9] = [] ∧
    fld ((tokenState 3 9 0 (List.replicate 48 0 ++ [16])).token 0).payload 48 1 = 16 ∧
    (tokenState 3 9 0 (List.replicate 48 0 ++ [16])).nvBlocked = false :=
  ⟨by decide, by decide, tokenFails_good (by decide +kernel) (by rw [hu]; decide +kernel) (by decide +kernel) (tokenKey_ven (by decide +kernel)) hv
    (by decide +kernel), by decide +kernel, by decide⟩

theorem witness_TokensGuardOperations_rollfwd (hu : Config.uid = 0) (hv : Config.slhVerify Config.vendorKey (tokenOf (tokenState 3 8 0 []) 8).body
    (tokenOf (tokenState 3 8 0 []) 8).sig = true) : (tokenState 3 8 0 []).Quiet ∧ (tokenState 3 8 0 []).MayOperate .bus ∧
    ((tokenState 3 8 0 []).begun 8).tokenFails (tokenOf (tokenState 3 8 0 []) 8) [8] = [] ∧
    (tokenState 3 8 0 []).dev.bootSvn.toNat = ((tokenState 3 8 0 []).token 0).arg :=
  ⟨by decide, by decide, tokenFails_good (by decide +kernel) (by rw [hu]; decide +kernel) (by decide +kernel) (tokenKey_ven (by decide +kernel)) hv
    (by decide +kernel), by decide +kernel⟩

theorem witness_TokensGuardOperations_lifecycle (hu : Config.uid = 0) (hv : Config.slhVerify Config.vendorKey (tokenOf (tokenState 3 5 0 []) 5).body
    (tokenOf (tokenState 3 5 0 []) 5).sig = true) : (tokenState 3 5 0 []).Quiet ∧ (tokenState 3 5 0 []).MayOperate .bus ∧
    ((tokenState 3 5 0 []).begun 5).tokenFails (tokenOf (tokenState 3 5 0 []) 5) [3, 4, 5, 7] = [] ∧
    ((tokenState 3 5 0 []).begun 5).consentFails ((tokenState 3 5 0 []).token 0) = [] ∧
    ((tokenState 3 5 0 []).dev.run || (tokenState 3 5 0 []).usedEntries ≠ 0 || (tokenState 3 5 0 []).anyWindow) = false :=
  ⟨by decide, by decide, tokenFails_good (by decide +kernel) (by rw [hu]; decide +kernel) (by decide +kernel) (tokenKey_ven (by decide +kernel)) hv
    (by decide +kernel), if_neg (by decide), by decide⟩

theorem witness_TokensGuardOperations_open (hu : Config.uid = 0) (hv : Config.slhVerify Config.vendorKey (tokenOf (tokenState 3 1 0 []) 3).body
    (tokenOf (tokenState 3 1 0 []) 3).sig = true) : (tokenState 3 1 0 []).Quiet ∧ (tokenState 3 1 0 []).MayOperate .bus ∧
    ((tokenState 3 1 0 []).begun 3).tokenFails (tokenOf (tokenState 3 1 0 []) 3) [1, 2] = [] ∧ (tokenState 3 1 0 []).policyNow = none ∧
    ((tokenState 3 1 0 []).windows.any fun w => w.2.st != .closed) = false ∧
    ((tokenState 3 1 0 []).engines.any fun e => !e.2.claims.isEmpty) = false :=
  ⟨by decide, by decide, tokenFails_good (by decide +kernel) (by rw [hu]; decide +kernel) (by decide +kernel) (tokenKey_ven (by decide +kernel)) hv
    (by decide +kernel), if_neg (fun h => absurd h.1 (by decide)), by decide, by decide⟩

/-- A part in the field, with a debug state. -/
def field (lc : BitVec 4) (debug : BitVec 2) : State := up.modSec fun c => { c with lc := lc, debug := debug }
/-- STORE of one byte of DRAM to the first byte of a user area, as the security buffer asks. -/
def storing : State := up.modSec fun c => { c with secbuf := Mem.setBytes 0 [] 0 (leBytes 8 0x3000 ++ leBytes 4 0x4180000 ++ leBytes 4 1) }

theorem witness_SecurityOperationsEnd_states : (field 5 1).Quiet ∧ (field 5 1).MayOperate .bus ∧ (field 5 1).sec.debug ≠ 0 ∧ (field 5 1).sec.lc = 0x5 ∧
    (field 5 1).pins.thermtrip = false ∧ up.sec.debug = 0 ∧ up.sec.lc ≠ 0x5 ∧ leNat (up.secBytes 0 1) < 16 := by decide
theorem witness_SecurityOperationsEnd_store : storing.MayOperate .bus ∧ storing.lcWork = true ∧ storing.pins.thermtrip = false ∧
    storing.nvBlocked = false ∧ inDram (leNat (storing.secBytes 0 6)) (leNat (storing.secBytes 12 4)) = true ∧
    inUser (leNat (storing.secBytes 8 4)) (leNat (storing.secBytes 12 4)) = true := by decide
/-- A region header of an empty region at DRAM address 0 of a part in FIELD, whose owner's key is the empty one. -/
def verifying : State := { tokenState 5 0 0 [] with dram := [(0, 1)] }.modSec fun c => { c with secbuf := [] }

theorem witness_SecurityOperationsEnd_verify : verifying.Quiet ∧ verifying.MayOperate .bus ∧ verifying.Healthy ∧ verifying.sec.lc = 0x5 ∧
    verifying.pins.thermtrip = false ∧ inDram 0 (4096 + 0 + 16224) = true ∧ leNat (verifying.secBytes 0 6) = 0 ∧
    fld (verifying.bytes 0 64) 0 1 = 1 ∧ fld (verifying.bytes 0 64) 1 7 = 0 ∧ fld (verifying.bytes 0 64) 8 4 = 0 ∧
    fld (verifying.bytes 0 64) 12 52 = 0 ∧ Tab.get none verifying.sec.regions 0 = none ∧ verifying.ownerKeyNow = some [] :=
  ⟨by decide, by decide, by decide, by decide, by decide, by decide, by decide, by decide, by decide, by decide, by decide, by decide,
    by simp [State.ownerKeyNow, verifying, tokenState, State.modSec]⟩

/-- An image of one byte at DRAM address 0, of a part that booted slot A or B. -/
def updating (slot : BitVec 2) : State :=
  { up with dram := [(0, 1), (4, 1)], dev := { up.dev with bootSlot := slot }, sec := { up.sec with svf := 0 } }

theorem witness_SecurityOperationsEnd_update (slot : BitVec 2) (hv : Config.slhVerify Config.vendorKey (imgBytes (updating slot).byte 0 64)
    (imgBytes (updating slot).byte 64 16224) = true) (hh : Config.sha256 (imgBytes (updating slot).byte 0x4000 1) = 0) :
    inDram 0 (0x4000 + 1) = true ∧ imageResult (updating slot).byte (updating slot).sec.svf = 0 := by
  have hf : leNat (imgBytes (updating 0).byte 0 1) = 1 ∧ imgSvn (updating 0).byte = 0 ∧ leNat (imgBytes (updating 0).byte 2 2) = 0 ∧
      leNat (imgBytes (updating 0).byte 48 16) = 0 ∧ leNat (imgBytes (updating 0).byte 4 4) = 1 ∧ leNat (imgBytes (updating 0).byte 40 4) = 0 ∧
      leNat (imgBytes (updating 0).byte 44 4) = 0 ∧ leNat (imgBytes (updating 0).byte 8 32) = 0 := by decide +kernel
  have e : (updating slot).byte = (updating 0).byte := rfl
  have f : (updating slot).sec.svf = 0 := rfl
  rw [e] at hv hh ⊢
  rw [f]
  generalize (updating 0).byte = g at *
  refine ⟨by decide, ?_⟩
  simp [imageResult, hf, hv, hh]

theorem witness_SecurityOperationsEnd_updating : (updating 1).Quiet ∧ (updating 1).MayOperate .bus ∧ (updating 1).Healthy ∧
    (updating 1).pins.thermtrip = false ∧ (updating 1).nvBlocked = false ∧ leNat ((updating 1).secBytes 0 6) = 0 ∧
    (updating 0).dev.bootSlot = 0 := by decide
theorem witness_SecurityOperationsEnd_clocks : up.Quiet ∧ up.power.inhibit = false := by decide

/-- The TAP in a debug state; the Reeve may be halted. -/
def openTap (halted : Bool) : State := up.modSec fun c => { c with debug := 2, reeveHalted := halted }

theorem witness_TapObeysTheDebugState : up.Quiet ∧ up.dev.pstate ≠ psOff ∧ up.tapAdmits 0x31 = false ∧ (openTap false).sec.debug = 2 ∧
    (openTap true).sec.debug = 2 ∧ (openTap true).sec.reeveHalted = true := by decide

/-! ## Ill-formed commands are refused by each check -/

def goodSk : SkFrame := { param := noParam }
def goodEth : EthFrame := { len := 64 }

theorem test_wf_sk_param : Instr.wf (.submit goodSk) = true ∧ Instr.wf (.submit { goodSk with param := [] }) = false := by decide
theorem test_wf_sk_payload : SkFrame.wf { goodSk with payload := List.replicate 8193 0 } = false := by decide +kernel
theorem test_wf_avtp_head : Instr.wf (.aafFrame { avtpEth with body := .avtp { avtpFrame with aafh := [0] } }) = false := by decide
theorem test_wf_avtp_payload : AvtpFrame.wf { avtpFrame with payload := List.replicate 9001 0 } = false := by decide +kernel
theorem test_wf_eth_short : Instr.wf (.frameReceive goodEth) = true ∧ Instr.wf (.frameReceive { goodEth with len := 63 }) = false := by decide
theorem test_wf_eth_skouk : Instr.wf (.stream streamEth) = true ∧ Instr.wf (.stream { streamEth with port := 6 }) = false ∧
    Instr.wf (.stream { streamEth with len := 115 }) = false := by decide
theorem test_wf_eth_other : Instr.wf (.frameReceive { goodEth with body := .other (List.replicate 65 0) }) = false := by decide
theorem test_wf_report : Instr.wf (.faultReport { source := 0x29, inst := 256 }) = false := by decide
theorem test_wf_escalation : Instr.wf (.escalationQuietExpiry 0x29 256) = false := by decide
theorem test_wf_window (d : List Byte) (h : 16777216 ≤ d.length) : WinWrite.wf { winWrite 3 1 0 with data := d } = false := by
  simp [WinWrite.wf]; omega
theorem test_wf_tdm : Instr.wf (.tdmFrame 0 [0]) = false := by decide
theorem test_wf_spi : Instr.wf (.spiTransaction 0 [0]) = false ∧ Instr.wf (.spiTransaction 0 (List.replicate 33 0)) = false := by decide

/-! ## The spec's worked examples -/

/-- The worked example of the nibble split: v = 37 − 128 gives −6 and 5. -/
theorem test_nibbles : hiNib (37 - 128) = -6 ∧ loNib (37 - 128) = 5 := by decide
/-- The worked example of the Smithy: 12,345 with SMUL 181 and SSHIFT −6 adds 34,913. -/
theorem test_smithy : smithyAddend 12345 181 (32 - 6) = 34913 := by decide
/-- The worked example of the residue check. -/
theorem test_residues : mod3 (-113) = 1 ∧ mod3 1934 = 2 ∧ mod3 1966 = 1 := by decide
/-- The worked traversal of a grid of side 4. -/
theorem test_curve : (List.range 16).map (hilXy 2) =
    [(0, 0), (1, 0), (1, 1), (0, 1), (0, 2), (0, 3), (1, 3), (1, 2), (2, 2), (2, 3), (3, 3), (3, 2), (3, 1), (2, 1), (2, 0), (3, 0)] := by
  decide
/-- The worked AUTO table of a GEMM with M = 1,000 and N = 1,500: tile indices, N first. -/
theorem test_auto_tiles : (List.range 6).map (autoGemm 1000 1500).indices = [[0, 0], [1, 0], [1, 1], [0, 1], [2, 1], [2, 0]] := by decide

/-- The Sieve of the worked example: a U4 output, with an activation function and a rounding. -/
def sievePlan (actfn alpha round : Nat) : Plan :=
  { cmd := cmdOf ([1, BitVec.ofNat 8 (16 * round), BitVec.ofNat 8 actfn, BitVec.ofNat 8 alpha] ++ List.replicate 60 0)
    ds := [descOf (descOfBytes roY 0x11 0x20 0 0 16 16)] }
/-- Its scales: 2^−10 × 40, 2^−12 × 74 and 2^−8 × 128, with zero point 3. -/
def sieveScales : Scales := { ga := 0x3A800000, gw := 0x39800000, go := 0x3B800000, va := 40, vw := 74, vo := 128, zo := 3 }

theorem test_scale_values : (scaleVal 0x28, scaleVal 0x45, scaleVal 0x60, scaleVal 0x69, scaleVal 0x6A) = (40, 74, 128, 164, 168) := by decide
theorem test_sieve_relu : (up.sieve (sievePlan 1 0 0) sieveScales 2345 0 1 0).raw = 6 := by decide +kernel
theorem test_sieve_leaky : (up.sieve (sievePlan 2 26 0) sieveScales (-3000) 0 1 0).raw = 3 := by decide +kernel
theorem test_sieve_clips : let e := up.sieve (sievePlan 1 0 0) sieveScales 12000 0 1 0
    e.raw = 15 ∧ e.hi = true ∧ (e.ext.map fun x => bfRne (fmul 0x3F000000 x)) = some 0x4107 := by decide +kernel
theorem test_sieve_draws : (up.sieve (sievePlan 1 0 1) sieveScales 2345 0 1 50000).raw = 7 ∧
    (up.sieve (sievePlan 1 0 1) sieveScales 2345 0 1 40000).raw = 6 := by decide +kernel
/-- The worked derivation of a scale code: 8.4375 and −0.75 give 0x6A and 1 in U4, 0x0A and 19 in U8. -/
theorem test_derive : derive true 4 0x3B800000 16 0x41070000 0xBF400000 3 = { code := 0x6A, zp := 1 } ∧
    derive true 8 0x3B800000 16 0x41070000 0xBF400000 3 = { code := 0x0A, zp := 19 } := by decide +kernel

/-- The worked CONV: stride 2, padding 1, 270 × 480 with 3 × 3 filters. -/
def convGeo : Geo :=
  { kh := 3, kw := 3, sh := 2, sw := 2, dh := 1, dw := 1, pt := 1, pb := 1, pl := 1, pr := 1, mode := 0, asym := false, const := 0
    s2d := 1, d2s := 1, ih := 270, iw := 480, ic := 96, g := 1 }

theorem test_conv_extents : (convGeo.oh, convGeo.ow, highReach 135 2 1 1 3 270, highReach 240 2 1 1 3 480) = (135, 240, 0, 0) := by decide
theorem test_conv_auto : (autoImage convGeo false dN 128 1).tcount = 68 ∧
    (autoImage convGeo false dN 128 1).levels.map (fun l => (l.dim, l.tile)) = [(dN, 128), (dW, 60), (dH, 8)] := by decide
theorem test_conv_border : (mapIdx 2 270 (-1), mapIdx 3 270 (-1), mapIdx 4 270 (-1), mapIdx 4 480 (-1)) = (some 1, some 0, some 269, some 479) := by
  decide
/-- The worked Winograd patch: V[0][0] = 17, V[1][1] = 14, and the sum of V is 8. -/
theorem test_winograd : let d (x y : Nat) := matAt [[3, -2, 0, 5], [1, 4, -3, 2], [-8, 7, 6, -1], [0, 2, -5, 3]] x y
    winV d 0 0 = 17 ∧ winV d 1 1 = 14 ∧ (List.range 16).foldl (fun a k => a + winV d (k / 4) (k % 4)) 0 = 8 := by decide
/-- The worked BOXPOOL sample: row 10 exactly, column 20 and a quarter. -/
theorem test_box_sample : sampleAt (samplePos (10 * 65536) (14 * 65536) 2 2 0 0) 100 = some (10, 11, 0, 2 ^ 20) ∧
    sampleAt (samplePos (20 * 65536) (26 * 65536) 2 2 0 0) 200 = some (20, 21, 2 ^ 17, 2 ^ 19) := by decide +kernel

/-- The exponent table of the worked EXP stream. -/
def expTable : List ExpCode :=
  assignCodes 0 0 ([(2, some 0x7C), (2, some 0x7D), (3, some 0x7B), (3, some 0x7E), (4, some 0x7A), (4, none), (4, some 0x79), (4, some 0x7F)].foldl
    (fun l v => insLen v l) [])
theorem test_exp_stream : readExps expTable 4 (msbBits [0x2E, 0xC2, 0xA0]) = some [0x7C, 0x7E, 0x85, 0x7D] := by decide

/-- The worked A8W8 GEMM tile: its footprint, passes and weight load. -/
def footPlan : Plan :=
  { cmd := cmdOf ([1, 0x46] ++ List.replicate 62 0)
    ds := [descOf (descOfBytes roX 6 0x20 0 0 4096 512), descOf (descOfBytes roW 6 0x08 0 0 4096 512), descOf (descOfBytes roY 0x17 0x20 0 0 512 512)]
    loop := autoGemm 512 512, ext := [512, 512, 4096] }
theorem test_footprint : (footPlan.footprint, footPlan.passes, footPlan.lw) = (4524736, 32, 512) := by decide +kernel

/-- The window of the worked aperture example takes a write at 0x24000 and refuses one that ends past its range. -/
theorem test_window_range : let w : Window := { st := .opn, off := 0x20000, len := 0x10000, wepoch := 0x42, engmask := 1 }
    w.admits 0x42 true 0x24000 4096 = true ∧ w.admits 0x42 true 0x2F800 4096 = false ∧ w.admits 0x41 true 0x24000 4096 = false := by decide
/-- The worked Watch input: energy 2^54 with EOFF 39 gives code 15. -/
theorem test_watch_code : WIn.code { src := 0, kind := 1, chan := 0, sh := 39, n := 1, f := 1, dst := 0, mul := 0, zo := 0, cidx := 0, ccnt := 1 }
    [2 ^ 27] 0 0 = 15 := by decide
/-- CRC-32C of the nine ASCII digits (log 7). -/
theorem test_crc : crc32c [0x31, 0x32, 0x33, 0x34, 0x35, 0x36, 0x37, 0x38, 0x39] = 0xE3069283 := by decide +kernel

/-! ## Single steps -/

/-- What a reading of the next state gives; none where there is no next state. -/
def after {α : Type} (o : Host.Outcome State Fault Refusal) (f : State → α) : Option α :=
  match o with
  | .next t => some (f t)
  | _ => none

/-- `DEVCTL` of the worked bring-up: low half 0x0019 after high half 0 sets RUN and PROFILE 3 (R732, R735). -/
theorem test_step_devctl : after (exec (.registerWrite 0x04 (.busLow 0x19)) (up.modCtx .bus fun c => { c with hold := some (0x04, 0) }))
    (fun t => (t.dev.run, t.dev.profile)) = some (true, 3) := by decide +kernel
/-- A low half with no holding register takes high half 0 (R732). -/
theorem test_step_low_alone : after (exec (.registerWrite 0x3B (.busLow 0xABCD)) up) (fun t => t.dev.scratch) = some 0xABCD := by decide +kernel
/-- `QCFG` 0x00800096 of the worked bring-up (R740). -/
theorem test_step_qcfg : after (exec (.qcfgWrite (.word .bus 0x00800096)) up)
    (fun t => ((t.queue 0).lsize, (t.queue 0).prio, (t.queue 0).en, (t.queue 0).quota)) = some (6, 1, true, 512) := by decide +kernel
/-- SIGNAL adds its VALUE to counter 3, wrapping modulo 2^32 (R238). -/
theorem test_step_signal : after (exec (.signal 0) (signalJob.setQueue 0 { sc := [(3, 0x80000001)] })) (fun t => Tab.get 0 (t.queue 0).sc 3) = some 0 := by
  decide +kernel
/-- LOADB writes base slot 15 (R236). -/
theorem test_step_loadb : after (exec (.loadb 0) { loadbJob with dram := Mem.setBytes 0 loadbJob.dram 0x3000 [1, 2, 3, 4] })
    (fun t => Tab.get 0 (t.queue 0).bslots 15) = some 0x04030201 := by decide +kernel
/-- A write of a window's last eight bytes lands at its Barn offset (R354). -/
theorem test_step_window : after (exec (.windowWrite (winWrite 3 1 0)) (winJob 1)) (fun t => ((t.eng 23).barn.byte 127, (t.eng 23).barn.byte 119)) =
    some (8, 0) := by decide +kernel
/-- WCLOSE of the window in the worked example: its home lies at 0x0D02_0000. -/
theorem test_window_home : winHome 13 0x20000 = 0x0D020000 := by decide
/-- An Ethernet frame one byte longer than 1,522 B is dropped and counted in PDROP (R498). -/
theorem test_step_long_frame : after (exec (.frameReceive { trunkEth with len := 1523 }) trunkNet) (fun t => (t.tx, t.ctr 5 0 2)) = some ([], 1) := by
  decide +kernel
/-- IRQSTAT bits are cleared by writing 1 (R735). -/
theorem test_step_irqstat : after (exec (.registerWrite 0x06 (.word .bus 0x005)) (up.modDev fun d => { d with irqstat := 0x7FF }))
    (fun t => t.dev.irqstat) = some 0x7FA := by decide +kernel
/-- The idle step leaves everything alone (log 6). -/
theorem test_step_idle : step up = .next up := rfl
/-- Reset memory is canonical, and stays so under a write. -/
theorem test_memory_wf : Memory.wf State.reset.dram ∧ Memory.wf (State.reset.write 5 [1, 0, 2]).dram := by decide

end Sys2Proof.Tests
end

section
/-! PROOFS. The register words and the halves of the management bus (R15, R729-R732): what one write or read access comes to, and then what each
word of `RegistersAreWritten` does under it. -/

open Sys2Proof Sys2Proof.Machine

namespace Sys2Proof.Machine

variable {p : Path} {v : Word} {s : State}

/-! ## Updates that leave a Quiet state Quiet -/

theorem State.Quiet.modCtx (h : s.Quiet) (f : Ctx → Ctx) : (s.modCtx p f).Quiet := h

theorem State.Quiet.modDev (h : s.Quiet) {f : Dev → Dev} (hf : (f s.dev).retryDue = s.dev.retryDue) : (s.modDev f).Quiet := by
  obtain ⟨hrep, hexit, hopen, hretry⟩ := h
  exact ⟨hrep, hexit, hopen, hf.trans hretry⟩

theorem State.Quiet.modBell (h : s.Quiet) {f : Bell → Bell} (hr : (f s.bell).heldReports = s.bell.heldReports)
    (he : (f s.bell).exit = s.bell.exit) : (s.modBell f).Quiet := by
  obtain ⟨hrep, hexit, hopen, hretry⟩ := h
  exact ⟨hr.trans hrep, he.trans hexit, hopen, hretry⟩

/-! ## One access -/

/-- A permitted whole write has the word's own effect, and nothing follows it where that leaves nothing to wait for. -/
theorem done_access_word {w : Nat} {t : State} (hw : s.canWrite p w = true) (ht : s.writeWord p w v = t) (hq : t.Quiet) :
    done (s.access w (.word p v)) = .next t := by
  have hacc : s.access w (.word p v) = t := by simp [State.access, State.wrAcc, hw, ht]
  rw [hacc, done_quiet hq]

/-- The high half that a write of a low half finds for its word (R732). -/
def State.heldHigh (s : State) (w : BitVec 6) : Half :=
  match (s.ctx .bus).hold with
  | some (tag, h) => if tag = w then h else 0
  | none => 0

theorem State.wrAcc_busLow (w : BitVec 6) (lo : Half) :
    s.wrAcc w.toNat (.busLow lo) = (.bus, s.heldHigh w ++ lo, s.modCtx .bus fun c => { c with hold := none }) := by
  unfold State.wrAcc State.heldHigh
  cases (s.ctx .bus).hold with
  | none => rfl
  | some held => simp only [BitVec.toNat_inj]

/-- A permitted write of a low half is the whole write of the completed word, with the holding register empty (R732). -/
theorem State.access_busLow {w : BitVec 6} (hw : s.canWrite .bus w.toNat = true) (lo : Half) :
    s.access w.toNat (.busLow lo) =
      (s.modCtx .bus fun c => { c with hold := none }).access w.toNat (.word .bus (s.heldHigh w ++ lo)) := by
  have hw' : (s.modCtx .bus fun c => { c with hold := none }).canWrite .bus w.toNat = true := hw
  simp only [State.access, State.wrAcc_busLow, hw, if_true]
  simp only [State.wrAcc, hw', if_true]

/-! ## The halves on the management bus -/

/-- The bus address of a word's high half. -/
def highAddr (w : BitVec 6) : Half := BitVec.ofNat 16 (2 * w.toNat + 1)

/-- It has no reserved bit set, it is odd, and it names its word (R728). -/
theorem highAddr_parts (w : BitVec 6) : (highAddr w).toNat < 128 ∧ (highAddr w).toNat % 2 = 1 ∧ (highAddr w).toNat / 2 = w.toNat := by
  have hlt := w.isLt
  have haddr : (highAddr w).toNat = 2 * w.toNat + 1 := Nat.mod_eq_of_lt (by omega)
  omega

theorem exec_mbWriteHighHalf (hq : s.Quiet) {w : BitVec 6} (hw : s.canWrite .bus w.toNat = true) (hi : Half) :
    exec (.mbWriteHighHalf (highAddr w) hi) s = .next (s.modCtx .bus fun c => { c with hold := some (w, hi) }) := by
  obtain ⟨hlt, hodd, hword⟩ := highAddr_parts w
  change execMbWriteHighHalf (highAddr w) hi s = _
  rw [execMbWriteHighHalf, hword, if_pos ⟨hlt, hodd, hw⟩, BitVec.ofNat_toNat, BitVec.setWidth_eq]
  exact done_quiet (hq.modCtx _)

/-- A read of the low half of a word whose read changes nothing keeps the whole word in the snapshot register (R729). -/
theorem exec_mbReadLowHalf_low (hq : s.Quiet) (hr : s.canRead .bus = true) {addr : Half} {x : Word} (hlt : addr.toNat < 128)
    (heven : addr.toNat % 2 = 0) (hx : s.readWord .bus (addr.toNat / 2) = (x, s)) :
    exec (.mbReadLowHalf addr) s = .next (s.modCtx .bus fun c => { c with
      snap := some (BitVec.ofNat 6 (addr.toNat / 2), x), rdata := BitVec.ofNat 32 (x.toNat % 65536) }) := by
  change execMbReadLowHalf addr s = _
  simp only [execMbReadLowHalf, hr, hx, heven, Bool.not_true, Bool.false_eq_true, if_false, Nat.not_le.mpr hlt, Nat.zero_ne_one]
  exact done_quiet (hq.modCtx _)

theorem State.highHalf_snap {w : BitVec 6} {x : Word} (h : (s.ctx .bus).snap = some (w, x)) : s.highHalf w.toNat = x.toNat / 65536 := by
  simp [State.highHalf, h]

/-- A read of a high half that the snapshot register holds takes it from there, whatever the word now is (R730). -/
theorem exec_mbReadLowHalf_high (hq : s.Quiet) (hr : s.canRead .bus = true) {w : BitVec 6} {x : Word} (hx : (s.ctx .bus).snap = some (w, x)) :
    exec (.mbReadLowHalf (highAddr w)) s = .next (s.modCtx .bus fun c => { c with rdata := BitVec.ofNat 32 (x.toNat / 65536) }) := by
  obtain ⟨hlt, hodd, hword⟩ := highAddr_parts w
  change execMbReadLowHalf (highAddr w) s = _
  simp only [execMbReadLowHalf, hr, hword, hodd, State.highHalf_snap hx, Nat.not_le.mpr hlt, Bool.not_true, Bool.false_eq_true, if_false,
    if_true]
  exact done_quiet (hq.modCtx _)

/-! ## Words of device control and the Bell -/

theorem exec_registerWrite_scratch (hq : s.Quiet) (hw : s.canWrite p 0x3B = true) :
    exec (.registerWrite 0x3B (.word p v)) s = .next (s.modDev fun d => { d with scratch := v }) :=
  done_access_word hw rfl (hq.modDev rfl)

theorem exec_registerWrite_irqstat (hq : s.Quiet) (hw : s.canWrite p 0x06 = true) :
    exec (.registerWrite 0x06 (.word p v)) s = .next (s.modDev fun d => { d with irqstat := d.irqstat &&& ~~~ (v.setWidth 11) }) :=
  done_access_word hw rfl (hq.modDev rfl)

theorem exec_irqenWrite (hq : s.Quiet) (hw : s.canWrite p 0x07 = true) : exec (.irqenWrite (.word p v)) s = .next (s.writeIrqen v) :=
  done_access_word hw rfl (hq.modDev rfl)

/-- Clearing FLTSUM bits releases ALERT_N where ALERT is among them and its minimum low time has ended (R590). -/
theorem State.clearFlt_eq (bits : Byte) : s.clearFlt bits = { s with
    bell := { s.bell with fltsum := s.bell.fltsum &&& ~~~ bits }
    pins := if bits &&& fsAlert ≠ 0 ∧ s.pins.alertMin = false then { s.pins with alertLow := false } else s.pins } := by
  unfold State.clearFlt
  by_cases h : bits &&& fsAlert ≠ 0 ∧ s.pins.alertMin = false
  · rw [if_pos h]; exact if_pos h
  · rw [if_neg h]; exact if_neg h

theorem exec_fltsumWrite (hq : s.Quiet) (hw : s.canWrite p 0x1A = true) :
    exec (.fltsumWrite (.word p v)) s = .next (s.clearFlt (v.setWidth 8)) :=
  done_access_word hw rfl (by rw [State.clearFlt_eq]; exact hq)

/-! ## Port configuration -/

theorem Port.role_lt (x : Port) : x.role < 4 := Nat.mod_lt _ (by decide)

/-- A number with its bits [2:1] replaced by a role keeps bit 0 and reads the role back. -/
theorem role_replaced_fields (n : Nat) {r : Nat} (hr : r < 4) :
    bitsOf (n - bitsOf n 2 1 * 2 + r * 2) 2 1 = r ∧ bitOf (n - bitsOf n 2 1 * 2 + r * 2) 0 = bitOf n 0 := by
  have h0 : (n - n / 2 % 4 * 2 + r * 2) % 2 = n % 2 := by omega
  simp only [bitsOf, bitOf, Nat.testBit_zero, Nat.reduceAdd, Nat.reduceSub, Nat.reducePow]
  exact ⟨by omega, by rw [h0]⟩

/-- The configuration that a write of `PORTCFG` gives an enabled port: the bits written that ports 0 to 7 define, with the role it
has (R503, R747). -/
def Port.keptRole (x : Port) (v : Word) : Nat :=
  let w := v.toNat &&& portMask 0
  w - bitsOf w 2 1 * 2 + x.role * 2

theorem Port.keptRole_lt (x : Port) (v : Word) : x.keptRole v < 2 ^ 32 := by
  have hw : v.toNat &&& portMask 0 ≤ 0x07FFF7FF := Nat.and_le_right
  have hr := x.role_lt
  simp only [Port.keptRole]
  omega

theorem Port.keptRole_fields (x : Port) {v : Word} (hv : bitOf v.toNat 0 = true) :
    bitsOf (x.keptRole v) 2 1 = x.role ∧ bitOf (x.keptRole v) 0 = true := by
  obtain ⟨hrole, hbit⟩ := role_replaced_fields (v.toNat &&& portMask 0) x.role_lt
  refine ⟨hrole, hbit.trans ?_⟩
  have hm : (portMask 0).testBit 0 = true := by decide
  rw [bitOf, Nat.testBit_and, hm, Bool.and_true]
  exact hv

/-- A write of `PORTCFG` that leaves an enabled port enabled changes that port alone and releases no link. -/
theorem State.writePortcfg_enabled {n : Nat} (hn : n < 8) (hen : (s.port n).en = true) (hv : bitOf v.toNat 0 = true) :
    s.writePortcfg n v = s.setPort n { s.port n with
      cfg := BitVec.ofNat 32 ((s.port n).keptRole v)
      cfgerr := (s.port n).cfgerr || cfgRefused n ((s.port n).keptRole v) } := by
  obtain ⟨-, hbit⟩ := (s.port n).keptRole_fields hv
  have hmask : portMask n = portMask 0 := by simp [portMask, hn]
  have hw : (v.toNat &&& portMask n) - bitsOf (v.toNat &&& portMask n) 2 1 * 2 + (s.port n).role * 2 = (s.port n).keptRole v := by
    rw [hmask, Port.keptRole]
  unfold State.writePortcfg
  simp only [show ¬ 14 ≤ n by omega, hn, hen, hw, hbit, and_self, if_true, if_false, Bool.and_true, Bool.not_true, Bool.false_eq_true,
    and_false]

theorem exec_portcfgWrite_enabled (hq : s.Quiet) (hw : s.canWrite p 0x2A = true) {n : Nat} (hsel : (s.ctx p).portsel.toNat = n) (hn : n < 8)
    (hen : (s.port n).en = true) (hv : bitOf v.toNat 0 = true) :
    exec (.portcfgWrite (.word p v)) s = .next (s.writePortcfg n v) ∧ ((s.writePortcfg n v).port n).role = (s.port n).role ∧
      ((s.writePortcfg n v).port n).en = true ∧ (∀ m, m ≠ n → (s.writePortcfg n v).port m = s.port m) ∧ (s.writePortcfg n v).peers = s.peers := by
  obtain ⟨hrole, hbit⟩ := (s.port n).keptRole_fields hv
  have hcfg : (BitVec.ofNat 32 ((s.port n).keptRole v)).toNat = (s.port n).keptRole v := Nat.mod_eq_of_lt ((s.port n).keptRole_lt v)
  have heq := State.writePortcfg_enabled (v := v) hn hen hv
  have hword : s.writeWord p 0x2A v = s.writePortcfg n v := by rw [← hsel]; rfl
  refine ⟨?_, ?_, ?_, fun m hm => ?_, ?_⟩
  · exact done_access_word hw hword (by rw [heq]; exact hq)
  · rw [heq, State.port_setPort_same, Port.role, hcfg, hrole]
  · rw [heq, State.port_setPort_same, Port.en, hcfg, hbit]
  · rw [heq, State.port_setPort_other _ _ _ _ hm]
  · rw [heq]; rfl

/-! ## Error injection -/

/-- The Bell with the injection of an `FLTINJ` word armed, the target being an engine's Barn (R594). -/
def Bell.armedBy (b : Bell) (v : Word) : Bell :=
  { b with
    injTarget := 1, injUnit := BitVec.ofNat 6 (bitsOf v.toNat 9 4), injBits := bitOf v.toNat 10
    injCount := BitVec.ofNat 8 (bitsOf v.toNat 23 16), injLeft := BitVec.ofNat 8 (bitsOf v.toNat 23 16), injArmed := true }

theorem exec_fltinjWrite_arms (hq : s.Quiet) (hw : s.canWrite p 0x1D = true) (hlc : s.sec.lc = 0x3) (ht : bitsOf v.toNat 3 0 = 1)
    (hu : bitsOf v.toNat 9 4 < 24) (hc : bitsOf v.toNat 23 16 ≠ 0) :
    exec (.fltinjWrite (.word p v)) s = .next (s.modBell fun b => b.armedBy v) := by
  have hunit : ¬ injUnits 1 ≤ bitsOf v.toNat 9 4 := Nat.not_le.mpr hu
  have heff : s.writeFltinj v = s.modBell fun b => b.armedBy v := by
    simp [State.writeFltinj, Bell.armedBy, hlc, ht, hunit, hc]
  exact done_access_word hw heff (hq.modBell rfl rfl)

/-- In FIELD a write of `FLTINJ` arms nothing; it leaves a record of the word (R596). -/
theorem exec_fltinjWrite_field (hq : s.Quiet) (hw : s.canWrite p 0x1D = true) (hlc : s.sec.lc = 0x5) (hroom : s.BookRoom) :
    exec (.fltinjWrite (.word p v)) s =
      .next ((s.modBook fun b => { b with buf := b.buf ++ [s.mkRec 0x0205 v.toNat 0 0 0] }).bump 12 0 1 1) := by
  have heff : s.writeFltinj v = s.record 0x0205 v.toNat 0 0 0 := by simp [State.writeFltinj, hlc]
  exact done_access_word hw (heff.trans (State.record_room hroom ..)) hq

/-! ## The time -/

/-- A read of `TIME_LO` gives the low word, latches the high one and moves the clock on (R723). -/
theorem exec_timeLoRead (hq : s.Quiet) (hr : s.canRead p = true) :
    exec (.timeLoRead p) s = .next ((s.tick.modCtx p fun c => { c with tlatch := BitVec.ofNat 32 (s.now / 2 ^ 32) }).modCtx p fun c =>
      { c with rdata := BitVec.ofNat 32 s.now }) := by
  have htick : s.tick.Quiet := hq.modDev rfl
  change done (s.readVia p 0x2E) = _
  rw [State.readVia, if_pos hr]
  exact done_quiet ((htick.modCtx _).modCtx _)

/-! ## The statement -/

/-- Settles O51, each word by its own rule above. -/
theorem registersAreWritten : Obligations.RegistersAreWritten := by
  intro p v s hq
  refine ⟨exec_registerWrite_scratch hq, fun w hi lo hw => ⟨exec_mbWriteHighHalf hq hw hi, ?busLow⟩, fun hr => ?scratchRead,
    fun w x hr hx => exec_mbReadLowHalf_high hq hr hx, exec_registerWrite_irqstat hq, fun hw => ?irqen, fun hw => ?fltsum,
    fun hw hn hen hv => ⟨_, exec_portcfgWrite_enabled hq hw rfl hn hen hv⟩, fun hw => ⟨exec_fltinjWrite_arms hq hw, fun hlc hroom => ?field⟩,
    fun hr => ?time, rfl⟩
  case busLow => exact congrArg done (State.access_busLow hw lo)
  case scratchRead => exact exec_mbReadLowHalf_low hq hr (by decide) (by decide) rfl
  case irqen => exact ⟨_, exec_irqenWrite hq hw, rfl, rfl, rfl, rfl⟩
  case fltsum =>
    refine ⟨_, exec_fltsumWrite hq hw, ?_⟩
    rw [State.clearFlt_eq]
    exact ⟨rfl, rfl, rfl, rfl⟩
  case field => exact ⟨_, _, exec_fltinjWrite_field hq hw hlc hroom, rfl, rfl, rfl, BitVec.ofNat_toNat _ _⟩
  case time => exact ⟨_, exec_timeLoRead hq hr, by simp, by simp, rfl, rfl⟩

end Sys2Proof.Machine
end

section
/-! PROOFS. Deposits and completions: the durable writes of one folded deposit (R465, R466, R468) and of one posted completion record (R475, R58). -/

open Sys2Proof Sys2Proof.Machine

namespace Sys2Proof.Machine

variable {s t u : State}

/-! ## Deposits -/

/-- The state after the three durable writes of a deposit: its fold into command area `a`, its place in the slot's line, and DONEN (R465). -/
def State.folded (s : State) (i : Nat) (a : BitVec 6) (d : Deposit) (rest : List Deposit) : State :=
  ((s.modArea a.toNat fun x => x.fold d).modSlot i fun x => { x with foldq := rest }).writeEntry (s.slot i).entry.val
    fun x => { x with donen := x.donen + 1 }

theorem State.folded_eq (hh : s.Healthy) (i : Nat) (a : BitVec 6) (d : Deposit) (rest : List Deposit) :
    s.folded i a d rest = { s with
      areas := Tab.set {} s.areas a.toNat ((s.area a.toNat).fold d)
      slots := Tab.set {} s.slots i { s.slot i with foldq := rest }
      ledger := Tab.set {} s.ledger (s.slot i).entry.val
        { s.entry (s.slot i).entry.val with donen := (s.entry (s.slot i).entry.val).donen + 1 }
      mirror := Tab.set {} s.mirror (s.slot i).entry.val
        { s.entry (s.slot i).entry.val with donen := (s.entry (s.slot i).entry.val).donen + 1 } } :=
  State.writeEntry_healthy (s := (s.modArea a.toNat fun x => x.fold d).modSlot i fun x => { x with foldq := rest }) hh _ _

/-- The work of entry `e`'s command is finished where `c` holds: that every tile is done and no deposit is left to fold (R468). -/
def State.finishedIf (s : State) (c : Prop) [Decidable c] (e : Nat) : State :=
  if c then s.modRun e fun r => { r with phase := .finished } else s

theorem State.finishedIf_eq (c : Prop) [Decidable c] (e : Nat) :
    s.finishedIf c e = { s with runs := if c then Tab.set {} s.runs e { s.run e with phase := .finished } else s.runs } := by
  unfold State.finishedIf
  split <;> rfl

theorem exec_depositFold {i : Fin 64} {d : Deposit} {rest : List Deposit} {a : BitVec 6} (hq : s.Quiet) (hh : s.Healthy)
    (hf : (s.slot i.val).foldq = d :: rest) (hu : (s.slot i.val).used = true) (hs : (s.slot i.val).stopping = false)
    (hd : s.dev.halted = false) (hr : s.sec.reeveHalted = false) (ha : (s.entry (s.slot i.val).entry.val).area = some a) :
    exec (.depositFold i) s = .next ((s.folded i.val a d rest).finishedIf
      ((s.slot i.val).done = (s.slot i.val).tcount ∧ rest = []) (s.slot i.val).entry.val) := by
  change execDepositFold i s = _
  simp only [execDepositFold, hf, hu, hs, hd, hr, ha, Bool.not_true, Bool.or_false, Bool.false_eq_true, if_false]
  refine done_quiet (s := (s.folded i.val a d rest).finishedIf _ _) ?_
  rw [State.finishedIf_eq, State.folded_eq hh]
  exact hq

/-- Settles O23: the three durable writes are to different tables, and only the last deposit of the last tile also writes the run. -/
theorem depositIsFolded : Obligations.DepositIsFolded := by
  intro i s d rest a hq hh hf hu hs hd hr ha
  refine ⟨_, exec_depositFold hq hh hf hu hs hd hr ha, ?_⟩
  have hfold := s.folded_eq hh i.val a d rest
  have hentry : ∀ k, (s.folded i.val a d rest).entry k = if k = (s.slot i.val).entry.val then
      { s.entry (s.slot i.val).entry.val with donen := (s.entry (s.slot i.val).entry.val).donen + 1 } else s.entry k :=
    fun k => State.entry_writeEntry (s := (s.modArea a.toNat fun x => x.fold d).modSlot i.val fun x => { x with foldq := rest }) hh _ k _
  rw [State.finishedIf_eq]
  refine ⟨?area, ?mcnt, ?slot, ?donen, ?finished, ?slots, ?entries, ?_⟩
  case area => rw [hfold]; exact Tab.get_set_same ..
  case mcnt => rw [hfold]; exact congrArg Area.mcnt (Tab.get_set_same ..)
  case slot => rw [hfold]; exact Tab.get_set_same ..
  case donen => exact congrArg Entry.donen ((hentry _).trans (if_pos rfl))
  case finished => intro hdone hrest; simp only [hdone, hrest, and_self, if_true]; exact congrArg JobRun.phase (Tab.get_set_same ..)
  case slots => intro j hj; rw [hfold]; exact Tab.get_set_other _ _ _ hj
  case entries => exact fun k hk => (hentry k).trans (if_neg hk)
  rw [hfold]
  exact ⟨rfl, rfl, rfl, rfl, rfl, rfl, rfl, rfl, rfl, rfl, rfl, rfl, rfl, rfl, fun _ _ => rfl, fun _ => rfl⟩

/-! ## Writes through the Granary -/

/-- Nothing but lines and counters of the Granary has changed. -/
def State.OnlyLines (s t : State) : Prop := ∃ sl cs, t = { s with slices := sl, ctrs := cs }

theorem State.OnlyLines.refl (s : State) : s.OnlyLines s := ⟨_, _, rfl⟩

theorem State.OnlyLines.trans (h : s.OnlyLines t) (k : t.OnlyLines u) : s.OnlyLines u := by
  obtain ⟨_, _, rfl⟩ := h
  obtain ⟨_, _, rfl⟩ := k
  exact ⟨_, _, rfl⟩

theorem State.OnlyLines.setSlice (s : State) (n : Nat) (x : Slice) : s.OnlyLines (s.setSlice n x) := ⟨_, _, rfl⟩

theorem State.OnlyLines.bump (s : State) (g i c n : Nat) : s.OnlyLines (s.bump g i c n) := ⟨_, _, rfl⟩

theorem State.OnlyLines.injArmed (h : s.OnlyLines t) (hi : s.bell.injArmed = false) : t.bell.injArmed = false := by
  obtain ⟨_, _, rfl⟩ := h
  exact hi

theorem State.landLine_unarmed (h : s.bell.injArmed = false) (sl line words : Nat) : s.landLine sl line words = s := by
  simp only [State.landLine, State.injHits_unarmed h, if_true]

theorem State.fillLine_onlyLines (h : s.bell.injArmed = false) (sl line cls : Nat) : s.OnlyLines (s.fillLine sl line cls) := by
  unfold State.fillLine
  dsimp only
  split
  · exact .refl s
  · rw [State.landLine_unarmed (by exact h)]
    exact .setSlice ..

/-- Without an armed injection a write touches only lines of the Granary (R366). -/
theorem State.touchLines_onlyLines (h : s.bell.injArmed = false) (cls a n : Nat) : s.OnlyLines (s.touchLines cls a n) := by
  refine forEach_ind (.refl s) fun l _ t ht => ht.trans ?_
  have hi := ht.injArmed h
  dsimp only
  split
  · rw [State.landLine_unarmed (by exact hi)]
    exact (State.OnlyLines.setSlice ..).trans (.bump ..)
  · split
    · exact State.fillLine_onlyLines hi ..
    · exact .refl t

/-- A write to DRAM through the Granary changes lines and counters besides the bytes (R365, R366). -/
theorem State.fabricWrite_onlyLines (h : s.bell.injArmed = false) (cls a : Nat) (bs : List Byte) :
    (s.write a bs).OnlyLines (s.fabricWrite cls a bs) := by
  obtain ⟨sl, cs, heq⟩ := State.touchLines_onlyLines h cls a bs.length
  exact ⟨sl, cs, congrArg (fun t : State => t.write a bs) heq⟩

/-! ## Completions -/

/-- A durable write does not look at the Granary: it is enough that both copies are good and no injection is armed (R446). -/
theorem State.writeEntry_good (hp : s.badP = []) (hm : s.badM = []) (hi : s.bell.injArmed = false) (e : Nat) (f : Entry → Entry) :
    s.writeEntry e f = { s with ledger := Tab.set {} s.ledger e (f (s.entry e)), mirror := Tab.set {} s.mirror e (f (s.entry e)) } := by
  simp [State.writeEntry, State.injHits, hp, hm, hi]

/-- What follows the record of job `e` of queue `q`: `QCTAIL`, IRQSTAT.CPL, POSTED, and the job's place in the ring (R56, R58). -/
def State.markPosted (s : State) (q e : Nat) (place : Half) : State :=
  (((s.modQueue q fun y => { y with ctail := y.ctail + 1 }).setIrq irqCpl).writeEntry e fun y => { y with st := .posted }).modJob e
    fun j => { j with recIdx := some place }

theorem State.markPosted_eq (hp : s.badP = []) (hm : s.badM = []) (hi : s.bell.injArmed = false) (q e : Nat) (place : Half) :
    s.markPosted q e place = { s with
      dev := (s.setIrq irqCpl).dev
      queues := (s.modQueue q fun y => { y with ctail := y.ctail + 1 }).queues
      ledger := Tab.set {} s.ledger e { s.entry e with st := .posted }
      mirror := Tab.set {} s.mirror e { s.entry e with st := .posted }
      jobs := Tab.set {} s.jobs e { s.job e with recIdx := some place } } := by
  unfold State.markPosted
  rw [State.writeEntry_good (by exact hp) (by exact hm) (by exact hi)]
  rfl

theorem State.markPosted_st (hp : s.badP = []) (hm : s.badM = []) (hi : s.bell.injArmed = false) (q e : Nat) (place : Half) :
    ((s.markPosted q e place).entry e).st = .posted := by
  rw [State.markPosted_eq hp hm hi, State.entry, if_neg (by simp [hp])]
  exact congrArg Entry.st (Tab.get_set_same ..)

/-- The place of a queue's next completion record (R58). -/
def Queue.recordAddr (x : Queue) : Nat := x.cbase.toNat + 32 * (x.ctail.toNat % 2 ^ x.lsize.toNat)

/-- Posting a job of the ring writes its record and marks it: no CPL frame is sent and no slot of a stream is released. -/
theorem State.post_ring {q e : Nat} (hqe : (s.entry e).queue.toNat = q) (hf : (s.entry e).form = false)
    (hc : (s.entry e).cplack = false) : s.post e = ((s.reeveTime).2.fabricWrite clsControl (s.queue q).recordAddr
      (s.complRecord (s.entry e) (s.reeveTime).1)).markPosted q e (s.queue q).ctail := by
  subst hqe
  have hcr : ∀ x t, (s.reeveTime).2.complRecord x t = s.complRecord x t := fun _ _ => rfl
  simp only [State.post, hcr, hf, hc, Bool.not_false, Bool.and_false, Bool.false_eq_true, if_false]
  rfl

theorem exec_completionPost (hw : s.Working) {q : Fin 32} {e : Nat} (he : s.postable q.val = some e)
    (hroom : (s.queue q.val).room = true) (hpost : (s.post e).Quiet) : exec (.completionPost q) s = .next (s.post e) := by
  obtain ⟨-, -, hrdone, htherm, hreeve, hboot, hps⟩ := hw
  have hup : s.dramUp = true := by simp [State.dramUp, htherm, hboot, hps]
  change execCompletionPost q s = _
  simp only [execCompletionPost, hup, hrdone, hreeve, State.postNext, he, hroom, Bool.not_false, Bool.and_self, if_true]
  exact done_quiet hpost

/-- Settles O15: the state posted differs from the one before it by the record, the queue word, IRQSTAT, the Ledger and the Granary. -/
theorem completionIsPosted : Obligations.CompletionIsPosted := by
  intro q e s hq hh hw he hroom hqe hf hc
  obtain ⟨hp, hm, hi, -⟩ := hh
  have hpost := State.post_ring hqe hf hc
  obtain ⟨sl, cs, hwrite⟩ := State.fabricWrite_onlyLines (s := (s.reeveTime).2) hi clsControl (s.queue q.val).recordAddr
    (s.complRecord (s.entry e) (s.reeveTime).1)
  generalize hu : (s.reeveTime).2.fabricWrite clsControl _ _ = u at hpost hwrite
  have hpu : u.badP = [] := by rw [hwrite]; exact hp
  have hmu : u.badM = [] := by rw [hwrite]; exact hm
  have hiu : u.bell.injArmed = false := by rw [hwrite]; exact hi
  have hst : ((s.post e).entry e).st = .posted := by rw [hpost]; exact State.markPosted_st hpu hmu hiu ..
  rw [State.markPosted_eq hpu hmu hiu] at hpost
  have hdram : (s.post e).dram = (s.write (s.queue q.val).recordAddr (s.complRecord (s.entry e) (s.reeveTime).1)).dram := by
    rw [hpost, hwrite, State.write_dram, State.write_dram]
    rfl
  have hquiet : (s.post e).Quiet := by rw [hpost, hwrite]; exact hq
  refine ⟨s.post e, exec_completionPost hw he hroom hquiet, hst, ?_, ?_, hdram, ?_, ?_⟩ <;> rw [hpost, hwrite] <;> rfl

end Sys2Proof.Machine
end

section
/-! PROOFS. Resets (R483-R490, R681, R772): what the parts of a warm reset, of a recovery of an empty Ledger, and of a boot leave unchanged, and then
the four resets of `ResetsKeepAndLose` from them. -/

open Sys2Proof Sys2Proof.Machine

namespace Sys2Proof.Machine

variable {s t u : State}

/-! ## Records -/

/-- What records and flushes of the Parish Book may change: the Book, counters, FLTSUM, the pins, and bits of IRQSTAT that become set. -/
def State.OnlyRecords (s t : State) : Prop :=
  ∃ bk cs pn fs due iq, t = { s with
    book := bk, ctrs := cs, pins := pn, bell := { s.bell with fltsum := fs }
    dev := { s.dev with irqDue := due, irqstat := s.dev.irqstat ||| iq } }

namespace State.OnlyRecords

theorem trans (h : s.OnlyRecords t) (k : t.OnlyRecords u) : s.OnlyRecords u := by
  obtain ⟨_, _, _, _, _, iq, rfl⟩ := h
  obtain ⟨bk, cs, pn, fs, due, jq, rfl⟩ := k
  exact ⟨bk, cs, pn, fs, due, iq ||| jq, by rw [← BitVec.or_assoc]⟩

theorem of_eq {bk : Book} {cs : Tab Ctr} {pn : Pins} {fs : Byte}
    (h : t = { s with book := bk, ctrs := cs, pins := pn, bell := { s.bell with fltsum := fs } }) : s.OnlyRecords t := by
  subst h
  exact ⟨bk, cs, pn, fs, s.dev.irqDue, 0, by simp⟩

theorem refl (s : State) : s.OnlyRecords s := of_eq rfl

theorem modBook (s : State) (f : Book → Book) : s.OnlyRecords (s.modBook f) := of_eq rfl

theorem bump (s : State) (g i c n : Nat) : s.OnlyRecords (s.bump g i c n) := of_eq rfl

theorem setIrq (s : State) (bits : BitVec 11) : s.OnlyRecords (s.setIrq bits) := ⟨_, _, _, _, _, bits, rfl⟩

theorem alert (s : State) : s.OnlyRecords s.alert := by
  unfold State.alert
  dsimp only
  split <;> exact of_eq rfl

theorem setFlt (s : State) (bits : Byte) : s.OnlyRecords (s.setFlt bits) := by
  have hbits : s.OnlyRecords (s.modBell fun b => { b with fltsum := b.fltsum ||| bits }) := of_eq rfl
  unfold State.setFlt
  dsimp only
  split <;> split
  · exact (hbits.trans (setIrq ..)).trans (alert _)
  · exact hbits.trans (alert _)
  · exact hbits.trans (setIrq ..)
  · exact hbits

theorem flushEnd (s : State) : s.OnlyRecords s.flushEnd := ((modBook ..).trans (bump ..)).trans (setIrq ..)

theorem flush (s : State) : s.OnlyRecords s.flush := by
  unfold State.flush
  split
  · exact refl s
  · split
    · exact flushEnd s
    · exact (modBook ..).trans (setIrq ..)

theorem addRec (s : State) (r : Rec) : s.OnlyRecords (s.addRec r) := by
  have hput : s.OnlyRecords ((s.modBook fun b => { b with buf := b.buf ++ [r] }).bump 12 0 1 1) := (modBook ..).trans (bump ..)
  unfold State.addRec
  split
  · exact refl s
  · split
    · exact ((modBook ..).trans (bump ..)).trans (setFlt ..)
    · dsimp only
      split
      · exact hput.trans (flush _)
      · exact hput

theorem record (s : State) (code p0 p1 p2 p3 : Nat) : s.OnlyRecords (s.record code p0 p1 p2 p3) := addRec s _

theorem programNext (s : State) : s.OnlyRecords s.programNext := by
  unfold State.programNext
  split
  · split
    · exact flushEnd s
    · exact refl s
  · split
    · exact refl s
    · split
      · exact (((modBook ..).trans (bump ..)).trans (setFlt ..)).trans (flushEnd _)
      · dsimp only
        split <;> split
        · exact (((modBook ..).trans (modBook ..)).trans (bump ..)).trans (flushEnd _)
        · exact ((modBook ..).trans (modBook ..)).trans (bump ..)
        · exact (modBook ..).trans (flushEnd _)
        · exact modBook ..

theorem programAll (n : Nat) (s : State) : s.OnlyRecords (State.programAll n s) := by
  induction n generalizing s with
  | zero => exact refl s
  | succ n ih =>
    unfold State.programAll
    split
    · exact (programNext s).trans (ih _)
    · exact refl s

end State.OnlyRecords

/-! ## Tiles cut short -/

/-- An engine whose tile has been cut short: its tiles and its Barn stay, and so does its Stook where no tile was in COMPUTE (R124, R340). -/
structure Engine.CutTo (e f : Engine) : Prop where
  claims : f.claims = e.claims
  barn : f.barn = e.barn
  stook : e.inPhase .compute = none → f.stook = e.stook

theorem Engine.CutTo.refl (e : Engine) : e.CutTo e := ⟨rfl, rfl, fun _ => rfl⟩

theorem Engine.CutTo.trans {e f g : Engine} (h : e.CutTo f) (k : f.CutTo g) : e.CutTo g := by
  refine ⟨k.claims.trans h.claims, k.barn.trans h.barn, fun he => ?_⟩
  have hf : f.inPhase .compute = none := by rw [Engine.inPhase, h.claims]; exact he
  exact (k.stook hf).trans (h.stook he)

/-- Only engines, counters, free values and held reports have changed, and every engine has at most had its tile cut short. -/
structure State.OnlyCut (s t : State) : Prop where
  eq : ∃ es cs fr hr, t = { s with engines := es, ctrs := cs, fresh := fr, bell := { s.bell with heldReports := hr } }
  wf : Tab.wf {} s.engines = true → Tab.wf {} t.engines = true
  eng : ∀ n, (s.eng n).CutTo (t.eng n)

namespace State.OnlyCut

theorem of_eq {cs : Tab Ctr} {fr : Nat} {hr : List Report}
    (h : t = { s with ctrs := cs, fresh := fr, bell := { s.bell with heldReports := hr } }) : s.OnlyCut t := by
  subst h
  exact ⟨⟨_, cs, fr, hr, rfl⟩, id, fun n => .refl (s.eng n)⟩

theorem refl (s : State) : s.OnlyCut s := of_eq rfl

theorem trans (h : s.OnlyCut t) (k : t.OnlyCut u) : s.OnlyCut u := by
  refine ⟨?_, k.wf ∘ h.wf, fun n => (h.eng n).trans (k.eng n)⟩
  obtain ⟨_, _, _, _, rfl⟩ := h.eq
  obtain ⟨es, cs, fr, hr, rfl⟩ := k.eq
  exact ⟨es, cs, fr, hr, rfl⟩

theorem modEng {n : Nat} {f : Engine → Engine} (h : (s.eng n).CutTo (f (s.eng n))) : s.OnlyCut (s.modEng n f) := by
  refine ⟨⟨_, _, _, _, rfl⟩, Tab.wf_set _ _ _ _, fun m => ?_⟩
  rw [State.modEng_eq, State.eng_setEng]
  split
  · next hm => rw [hm]; exact h
  · exact .refl _

theorem bump (s : State) (g i c n : Nat) : s.OnlyCut (s.bump g i c n) := of_eq rfl

theorem used (s : State) (n : Nat) : s.OnlyCut (s.used n) := of_eq rfl

theorem bumpFree (s : State) (g i c : Nat) : s.OnlyCut (s.bumpFree g i c) := of_eq rfl

theorem raise (s : State) (r : Report) : s.OnlyCut (s.raise r) := of_eq rfl

theorem of_forEach {α : Type} {l : List α} {f : α → State → State} (h : ∀ a (t : State), t.OnlyCut (f a t)) (s : State) :
    s.OnlyCut (forEach l f s) := forEach_ind (refl s) fun a _ t ht => ht.trans (h a t)

theorem injArmed (h : s.OnlyCut t) : t.bell.injArmed = s.bell.injArmed := by
  obtain ⟨_, _, _, _, rfl⟩ := h.eq
  rfl

theorem sieved (s : State) (n : Nat) (r : SieveRun) : s.OnlyCut (s.sieved n r) := by
  unfold State.sieved
  refine trans (trans (trans (trans ?_ (bump ..)) (bump ..)) (bump ..)) (bump ..)
  exact modEng ⟨rfl, rfl, fun _ => rfl⟩

theorem cutSieve (s : State) (n : Nat) : s.OnlyCut (s.cutSieve n) := by
  unfold State.cutSieve
  split
  · exact refl s
  · exact (sieved ..).trans (used ..)

/-- Without an armed injection, what a run of the Field has left is the engine's registers and its Stook, counters and reports (R121). -/
theorem takeRun (hi : s.bell.injArmed = false) {n : Nat} (hc : (s.eng n).inPhase .compute ≠ none) (c : Claim) (r : FieldRun) :
    s.OnlyCut (s.takeRun n c r) := by
  have hinj : s.fieldRun n = { s.fieldRun n with parInj := 0, resInj := 0 } := by
    simp only [State.fieldRun, State.injHits_unarmed hi]
  unfold State.takeRun
  rw [hinj]
  simp only [Nat.zero_sub, Nat.add_zero, State.useInj_zero]
  refine trans (trans (trans ?_ (bump ..)) (bump ..)) (of_forEach (fun f t => raise t _) _)
  exact modEng ⟨rfl, rfl, fun h => absurd h hc⟩

theorem fieldTile (hi : s.bell.injArmed = false) {n : Nat} (hc : (s.eng n).inPhase .compute ≠ none) (c : Claim) (p : Plan) (limit : Nat) :
    s.OnlyCut (s.fieldTile n c p limit) := by
  unfold State.fieldTile
  dsimp only
  refine trans ?_ (takeRun (by exact hi) (by exact hc) ..)
  exact of_eq rfl

theorem cutCompute (hi : s.bell.injArmed = false) (n : Nat) : s.OnlyCut (s.cutCompute n) := by
  unfold State.cutCompute
  split
  · exact refl s
  · next c hc =>
    have hne : (s.eng n).inPhase .compute ≠ none := by simp [hc]
    dsimp only
    split
    · exact refl s
    · split
      · exact of_forEach (fun k t => bumpFree t ..) s
      · split
        · exact (used ..).trans (fieldTile (by exact hi) (by exact hne) ..)
        · exact bumpFree ..

theorem cutTile (hi : s.bell.injArmed = false) (n : Nat) (gone : Claim → Bool) : s.OnlyCut (s.cutTile n gone) := by
  unfold State.cutTile
  split
  · exact refl s
  · split
    · exact bumpFree ..
    · split
      · exact cutCompute hi n
      · exact (cutSieve s n).trans (bumpFree ..)

/-- Every engine's tile is cut short. -/
theorem cutTiles (hi : s.bell.injArmed = false) (l : List Nat) (gone : Claim → Bool) :
    s.OnlyCut (forEach l (fun n s => s.cutTile n gone) s) :=
  forEach_ind (refl s) fun n _ _ ht => ht.trans (cutTile (ht.injArmed.trans hi) n gone)

end State.OnlyCut

/-! ## Tables swept by a reset -/

/-- A table in canonical form whose entries are all replaced, those equal to the default being left out, reads as the replacement. -/
theorem Tab.get_sweep {α : Type} [DecidableEq α] {d : α} {f : α → α} (hd : f d = d) {m : Tab α} (hm : Tab.wf d m = true) (k : Nat) :
    Tab.get d ((m.map fun p => (p.1, f p.2)).filter fun p => decide (p.2 ≠ d)) k = f (Tab.get d m k) := by
  induction m with
  | nil => exact hd.symm
  | cons e m ih =>
    obtain ⟨k', v⟩ := e
    simp only [Tab.wf, Bool.and_eq_true] at hm
    obtain ⟨⟨-, hbelow⟩, hm⟩ := hm
    have hrest := ih hm
    simp only [ne_eq, decide_not] at hrest ⊢
    by_cases hk : k = k'
    · subst hk
      rw [Tab.get_below d m k hbelow (Nat.le_refl k), hd] at hrest
      by_cases hv : f v = d <;> simp [hv, Tab.get, hrest]
    · by_cases hv : f v = d <;> simp [hv, Tab.get, hk, hrest]

/-- What holds of the default and of every entry listed holds of every read. -/
theorem Tab.get_of_all {α : Type} {d : α} {P : α → Prop} (hd : P d) {m : Tab α} (hm : ∀ e ∈ m, P e.2) (k : Nat) : P (Tab.get d m k) := by
  induction m with
  | nil => exact hd
  | cons e m ih =>
    obtain ⟨k', v⟩ := e
    simp only [Tab.get]
    split
    · exact hm (k', v) (by simp)
    · exact ih fun x hx => hm x (by simp [hx])

/-! ## The parts of a warm reset -/

/-- What every part of a warm reset keeps: memory, the jobs, and that nothing waits for its end but reports (R484). -/
structure State.KeepsJobs (s t : State) : Prop where
  dram : t.dram = s.dram
  ledger : t.ledger = s.ledger
  mirror : t.mirror = s.mirror
  jobs : t.jobs = s.jobs
  exit : t.bell.exit = s.bell.exit
  opening : t.sec.opening = s.sec.opening
  retryDue : t.dev.retryDue = s.dev.retryDue

theorem State.KeepsJobs.trans (h : s.KeepsJobs t) (k : t.KeepsJobs u) : s.KeepsJobs u :=
  ⟨k.dram.trans h.dram, k.ledger.trans h.ledger, k.mirror.trans h.mirror, k.jobs.trans h.jobs, k.exit.trans h.exit,
    k.opening.trans h.opening, k.retryDue.trans h.retryDue⟩

/-- The WARM_RESET record has been made and the debug session is closed (R483, R712). -/
structure State.SessionClosed (s t : State) : Prop where
  jobs : s.KeepsJobs t
  engines : t.engines = s.engines
  pstate : t.dev.pstate = s.dev.pstate
  injArmed : t.bell.injArmed = s.bell.injArmed
  lostTables : t.bell.lostTables = s.bell.lostTables
  busy : t.sec.busy = s.sec.busy
  session : t.sec.debug = 0

theorem State.closeSession_record (s : State) (code p0 p1 p2 p3 cause : Nat) :
    s.SessionClosed ((s.record code p0 p1 p2 p3).closeSession cause) := by
  have hrec := State.OnlyRecords.record s code p0 p1 p2 p3
  generalize s.record code p0 p1 p2 p3 = t at hrec
  unfold State.closeSession
  split
  · next hdebug =>
    obtain ⟨_, _, _, _, _, _, rfl⟩ := hrec
    exact ⟨⟨rfl, rfl, rfl, rfl, rfl, rfl, rfl⟩, rfl, rfl, rfl, rfl, rfl, hdebug⟩
  · have hclose := hrec.trans (.record t 0x0004 (BitVec.toNat t.sec.debug) cause 0 0)
    generalize t.record 0x0004 (BitVec.toNat t.sec.debug) cause 0 0 = u at hclose
    obtain ⟨_, _, _, _, _, _, rfl⟩ := hclose
    exact ⟨⟨rfl, rfl, rfl, rfl, rfl, rfl, rfl⟩, rfl, rfl, rfl, rfl, rfl, rfl⟩

/-- The engines, the Tally and the windows after a warm reset of a part whose engines are powered (R340, R483). -/
structure State.LogicReset (s t : State) : Prop where
  jobs : s.KeepsJobs t
  eng : Tab.wf {} s.engines = true → ∀ n, (t.eng n).barn = (s.eng n).barn ∧
    ((s.eng n).inPhase .compute = none → (t.eng n).stook = (s.eng n).stook) ∧ (t.eng n).claims = []
  slots : t.slots = []
  windows : ∀ n w, (t.window n w).st = .closed
  sec : t.sec = s.sec
  lostTables : t.bell.lostTables = s.bell.lostTables

theorem State.resetLogic_powered (hi : s.bell.injArmed = false) (hon : s.enginesOn = true) : s.LogicReset s.resetLogic := by
  have hcut := State.OnlyCut.cutTiles hi (List.range 24) fun _ => true
  unfold State.resetLogic
  simp only [hon, if_true]
  generalize forEach (List.range 24) (fun n s => s.cutTile n fun _ => true) s = t at hcut
  obtain ⟨es, cs, fr, hr, heq⟩ := hcut.eq
  refine ⟨?jobs, fun hwf n => ?eng, rfl, fun n w => ?window, ?sec, ?tables⟩
  case jobs => constructor <;> rw [heq]
  case eng =>
    have hget : Tab.get {} ((t.engines.map fun p => (p.1, p.2.reset)).filter fun p => decide (p.2 ≠ {})) n = (t.eng n).reset :=
      Tab.get_sweep (by decide) (hcut.wf hwf) n
    obtain ⟨-, hbarn, hstook⟩ := hcut.eng n
    simp only [State.eng] at hget hbarn hstook ⊢
    rw [hget]
    exact ⟨hbarn, hstook, rfl⟩
  case window =>
    refine Tab.get_of_all (P := fun x : Window => x.st = .closed) rfl (fun e he => ?_) _
    obtain ⟨p, -, rfl⟩ := List.mem_map.mp (List.mem_filter.mp he).1
    rfl
  case sec => rw [heq]
  case tables => rw [heq]

/-- Only units of the Market, their counters and words of device control that the Market sets have changed. -/
def State.OnlyMarket (s t : State) : Prop :=
  ∃ cs ps stx sts pts mk d, t = { s with ctrs := cs, peers := ps, sendTx := stx, streams := sts, ports := pts, market := mk, dev := d } ∧
    d.retryDue = s.dev.retryDue

theorem State.OnlyMarket.trans (h : s.OnlyMarket t) (k : t.OnlyMarket u) : s.OnlyMarket u := by
  obtain ⟨_, _, _, _, _, _, _, rfl, hd⟩ := h
  obtain ⟨cs, ps, stx, sts, pts, mk, d, rfl, he⟩ := k
  exact ⟨cs, ps, stx, sts, pts, mk, d, rfl, he.trans hd⟩

theorem State.OnlyMarket.of_forEach {α : Type} {l : List α} {f : α → State → State} (h : ∀ a (t : State), t.OnlyMarket (f a t)) (s : State) :
    s.OnlyMarket (forEach l f s) := forEach_ind ⟨_, _, _, _, _, _, _, rfl, rfl⟩ fun a _ _ ht => ht.trans (h a _)

theorem State.resetMarket_onlyMarket (s : State) : s.OnlyMarket s.resetMarket := by
  delta State.resetMarket
  extract_lets counted unpaired emptied regenerated
  have hcounted : s.OnlyMarket counted := by
    refine .of_forEach (fun ep t => ?_) s
    split <;> exact ⟨_, _, _, _, _, _, _, rfl, rfl⟩
  have hunpaired : counted.OnlyMarket unpaired := ⟨_, _, _, _, _, _, _, rfl, rfl⟩
  have hemptied : unpaired.OnlyMarket emptied := by
    refine .of_forEach (fun st t => ?_) unpaired
    exact ⟨_, _, _, _, _, _, _, rfl, rfl⟩
  clear_value emptied
  have hregenerated : emptied.OnlyMarket regenerated := ⟨_, _, _, _, _, _, _, rfl, rfl⟩
  refine .trans (.trans (.trans (.trans hcounted hunpaired) hemptied) hregenerated) ?_
  refine .of_forEach (fun n t => ?_) regenerated
  dsimp only
  split <;> exact ⟨_, _, _, _, _, _, _, rfl, rfl⟩

/-- What the reset of the Market keeps (R788). -/
structure State.MarketReset (s t : State) : Prop where
  jobs : s.KeepsJobs t
  engines : t.engines = s.engines
  slots : t.slots = s.slots
  windows : t.windows = s.windows
  sec : t.sec = s.sec
  lostTables : t.bell.lostTables = s.bell.lostTables

theorem State.resetMarket_kept (s : State) : s.MarketReset s.resetMarket := by
  obtain ⟨_, _, _, _, _, _, _, heq, hretry⟩ := s.resetMarket_onlyMarket
  rw [heq]
  exact ⟨⟨rfl, rfl, rfl, rfl, rfl, rfl, hretry⟩, rfl, rfl, rfl, rfl, rfl⟩

/-- The Hearth after a warm reset of a part without a security operation or a lost table (R483, R592). -/
structure State.HearthReset (s t : State) : Prop where
  jobs : s.KeepsJobs t
  engines : t.engines = s.engines
  slots : t.slots = s.slots
  windows : t.windows = s.windows
  session : t.sec.debug = s.sec.debug
  recovering : t.power.recovering = true
  wrstReq : t.power.wrstReq = none
  rdone : t.dev.rdone = false
  halted : t.dev.halted = false
  inReset : t.bell.inReset = true

theorem State.resetHearth_idle (hb : s.sec.busy = false) (hl : s.bell.lostTables = []) : s.HearthReset s.resetHearth := by
  delta State.resetHearth
  extract_lets p flagged waked armed powered running ended activated lost
  obtain ⟨d, hflagged, hd⟩ : ∃ d, flagged = { s with dev := d } ∧ d.retryDue = s.dev.retryDue := by
    dsimp only [flagged]
    split <;> exact ⟨_, rfl, rfl⟩
  clear_value flagged
  subst hflagged
  have hended : ended = running := if_neg (by rw [show running.sec.busy = s.sec.busy from rfl, hb]; decide)
  obtain ⟨tb, hactivated⟩ : ∃ tb, activated = { running with tables := tb } := by
    dsimp only [activated]
    rw [hended]
    split <;> exact ⟨_, rfl⟩
  have hlost : lost = [] := by
    dsimp only [lost]
    rw [hactivated]
    exact hl
  rw [hlost, forEach_nil, hactivated]
  exact ⟨⟨rfl, rfl, rfl, rfl, rfl, rfl, hd⟩, rfl, rfl, rfl, rfl, rfl, rfl, rfl, rfl, rfl⟩

/-- A command that leaves reports held by a warm reset, and nothing else that waits, ends as it is (R592). -/
theorem State.settle_inReset (hr : s.bell.inReset = true) (he : s.bell.exit = none) (ho : s.sec.opening = none)
    (hd : s.dev.retryDue = false) : s.settle = s := by
  simp [State.settle, State.reportsDone, State.exitCheck, State.openDone, State.openCheck, State.retryCheck, hr, he, ho, hd]

/-- The whole reset of an ACTIVE part, in the order of R483. -/
def State.warmReset (s : State) (c : Nat) : State :=
  ((s.record 0x0401 c s.usedEntries 0 0).closeSession 3).resetLogic.resetMarket.resetHearth

/-- What a warm reset keeps of an ACTIVE part, and what it loses (R340, R483, R484). -/
structure State.WarmReset (s t : State) : Prop where
  jobs : s.KeepsJobs t
  eng : Tab.wf {} s.engines = true → ∀ n, (t.eng n).barn = (s.eng n).barn ∧
    ((s.eng n).inPhase .compute = none → (t.eng n).stook = (s.eng n).stook) ∧ (t.eng n).claims = []
  slots : t.slots = []
  windows : ∀ n w, (t.window n w).st = .closed
  session : t.sec.debug = 0
  recovering : t.power.recovering = true
  wrstReq : t.power.wrstReq = none
  rdone : t.dev.rdone = false
  halted : t.dev.halted = false
  inReset : t.bell.inReset = true

theorem State.warmReset_active (c : Nat) (hi : s.bell.injArmed = false) (hps : s.dev.pstate = psActive) (hb : s.sec.busy = false)
    (hl : s.bell.lostTables = []) : s.WarmReset (s.warmReset c) := by
  unfold State.warmReset
  have hclosed := s.closeSession_record 0x0401 c s.usedEntries 0 0 3
  generalize (s.record 0x0401 c s.usedEntries 0 0).closeSession 3 = closed at hclosed
  have hlogic := State.resetLogic_powered (hclosed.injArmed.trans hi) (by simp [State.enginesOn, hclosed.pstate, hps])
  have hmarket := closed.resetLogic.resetMarket_kept
  have hsec := hmarket.sec.trans hlogic.sec
  have hhearth := State.resetHearth_idle ((congrArg Sec.busy hsec).trans (hclosed.busy.trans hb))
    ((hmarket.lostTables.trans hlogic.lostTables).trans (hclosed.lostTables.trans hl))
  refine ⟨((hclosed.jobs.trans hlogic.jobs).trans hmarket.jobs).trans hhearth.jobs, fun hwf n => ?eng,
    hhearth.slots.trans (hmarket.slots.trans hlogic.slots), fun n w => ?window,
    hhearth.session.trans ((congrArg Sec.debug hsec).trans hclosed.session), hhearth.recovering, hhearth.wrstReq, hhearth.rdone,
    hhearth.halted, hhearth.inReset⟩
  case eng =>
    have heng := hlogic.eng (by rw [hclosed.engines]; exact hwf) n
    simp only [State.eng, hhearth.engines, hmarket.engines, hclosed.engines] at heng ⊢
    exact heng
  case window =>
    rw [State.window, hhearth.windows, hmarket.windows]
    exact hlogic.windows n w

theorem exec_warmReset {c : Nat} (hr : s.power.wrstReq = some c) (hps : s.dev.pstate = psActive) (hb : s.dev.bootok = true)
    (ht : s.pins.thermtrip = false) : exec .warmReset s = done (s.warmReset c) := by
  change execWarmReset s = _
  simp only [execWarmReset, hr, hps, hb, ht]
  rfl

/-! ## Recovery of an empty Ledger -/

/-- A Quiet state in which recovery finds nothing to do: no entry, no job record, no enabled queue, and no stream (R485). -/
structure State.Empty (s : State) : Prop where
  quiet : s.Quiet
  ledger : s.ledger = []
  jobs : s.jobs = []
  closed : ∀ q, q < 32 → (s.queue q).en = false
  basic : (s.table 4).expert = false

namespace State.Empty

variable (h : s.Empty)
include h

theorem queueEntries (q : Nat) : s.queueEntries q = [] := by simp [State.queueEntries, h.ledger]

theorem jobOrder (q : Nat) : s.jobOrder q = [] := by simp [State.jobOrder, h.queueEntries]

theorem recover3 : s.recover3 = s := by simp [State.recover3, h.ledger]

theorem recover4 : s.recover4 = s := by simp [State.recover4, h.ledger]

theorem recover5 : s.recover5 = s := by simp [State.recover5, h.jobs]

theorem recover6 : s.recover6 = s := forEach_id fun q _ => by simp [h.queueEntries, State.postAll]

theorem recover78 : s.recover78 = s := by
  have hrebuild : forEach (List.range 32) (fun q s => forEach (s.jobOrder q) (fun p s => s.rebuild p.1) s) s = s :=
    forEach_id fun q _ => by simp [h.jobOrder]
  have hrehold : forEach (List.range 32) (fun q s => forEach (s.jobOrder q) (fun p s => s.rehold p.1) s) s = s :=
    forEach_id fun q _ => by simp [h.jobOrder]
  have hlive : s.liveEntries = [] := by simp [State.liveEntries, h.ledger]
  simp only [State.recover78, hrebuild, hrehold, hlive, forEach_nil]

theorem recoverHead (q : Nat) : s.recoverHead q = s := by simp [State.recoverHead, h.queueEntries]

theorem ringRead (n : Nat) {q : Nat} (hq : q < 32) : State.ringRead n s q = s := by
  cases n with
  | zero => rfl
  | succ n => simp [State.ringRead, State.ringOpen, h.closed q hq]

theorem resubmit (st : Nat) : s.resubmit st = s := by
  have hoff : (s.streamRec st).en = false := by simp [State.streamRec, State.clsByte, h.basic, bitOf]
  simp [State.resubmit, hoff]

end State.Empty

theorem State.Empty.onlyRecords (h : s.Empty) (k : s.OnlyRecords t) : t.Empty := by
  obtain ⟨hq, hl, hj, hc, hb⟩ := h
  obtain ⟨_, _, _, _, _, _, rfl⟩ := k
  exact ⟨hq, hl, hj, hc, hb⟩

/-- The state in which step 9 of recovery makes its record: recovery is over and IRQSTAT.RECOV set. -/
def State.recovered (s : State) : State :=
  (((s.modDev fun d => { d with rdone := true }).modPower fun p => { p with recovering := false }).setIrq irqRecov).used

/-- Step 9 finds no ring entry and no period to submit: it ends recovery and makes a record. -/
theorem State.Empty.recover9 (h : s.Empty) (lost : Nat) : s.recovered.OnlyRecords (s.recover9 lost) := by
  have hrec := State.OnlyRecords.record s.recovered 0x0402 s.free lost 0 0
  have hempty : (s.recovered.record 0x0402 s.free lost 0 0).Empty :=
    State.Empty.onlyRecords (s := s.recovered) ⟨h.quiet, h.ledger, h.jobs, h.closed, h.basic⟩ hrec
  have hheads : forEach (List.range 32) (fun q s => s.recoverHead q) s = s := forEach_id fun q _ => h.recoverHead q
  have heq : s.recover9 lost = s.recovered.record 0x0402 s.free lost 0 0 := by
    unfold State.recover9
    rw [hheads]
    change forEach _ _ (forEach _ _ (s.recovered.record 0x0402 s.free lost 0 0)) = _
    rw [forEach_id fun q hq => hempty.ringRead _ (List.mem_range.mp hq), forEach_id fun st _ => hempty.resubmit st]
  rw [heq]
  exact hrec

/-- Step 1 of recovery finds no copy to compare, and nothing waits for the end of the reset. -/
theorem State.Empty.recover1 (h : s.Empty) (hm : s.mirror = []) (hh : s.Healthy) :
    s.recover1 = s.modBell fun b => { b with inReset := false } := by
  obtain ⟨hp, hbm, -, -⟩ := hh
  have hall : s.allEntries = [] := by simp [State.allEntries, h.ledger, hm, hp, hbm]
  rw [State.recover1, hall, forEach_nil]
  exact State.settle_quiet (h.quiet.modBell rfl rfl)

theorem State.exitGoesOn_none (h : s.bell.exit = none) (chan : Bool) : s.exitGoesOn chan = s := by simp [State.exitGoesOn, h]

/-- The state in which recovery starts: DEVCTL.WRST is clear, and reports are no longer held (R592). -/
def State.outOfReset (s : State) : State := (s.modDev fun d => { d with wrst := false }).modBell fun b => { b with inReset := false }

/-- Recovery of an empty Ledger is its steps 1 and 9 (R485). -/
theorem exec_recovery (h : s.Empty) (hm : s.mirror = []) (hh : s.Healthy) (hr : s.power.recovering = true) (hup : s.dramUp = true) :
    ∃ lost chan, exec .recovery s = done ((s.outOfReset.recover9 lost).exitGoesOn chan) := by
  have hbegun : (s.modDev fun d => { d with wrst := false }).Empty := ⟨h.quiet, h.ledger, h.jobs, h.closed, h.basic⟩
  have hout : s.outOfReset.Empty := ⟨h.quiet, h.ledger, h.jobs, h.closed, h.basic⟩
  have hfirst : (s.modDev fun d => { d with wrst := false }).recover1 = s.outOfReset := hbegun.recover1 hm hh
  change ∃ lost chan, execRecovery s = done ((s.outOfReset.recover9 lost).exitGoesOn chan)
  simp only [execRecovery, hr, hup, hfirst, hout.recover3, hout.recover4, hout.recover5, hout.recover6, hout.recover78, Bool.not_true,
    Bool.or_self, Bool.false_eq_true, if_false]
  exact ⟨_, _, rfl⟩

theorem recovery_empty (h : s.Empty) (hm : s.mirror = []) (hh : s.Healthy) (hr : s.power.recovering = true) (hup : s.dramUp = true) :
    ∃ t, s.outOfReset.recovered.OnlyRecords t ∧ exec .recovery s = .next t := by
  have hout : s.outOfReset.Empty := ⟨h.quiet, h.ledger, h.jobs, h.closed, h.basic⟩
  obtain ⟨lost, chan, hexec⟩ := exec_recovery h hm hh hr hup
  have hrec := hout.recover9 lost
  have hend : (s.outOfReset.recover9 lost).Empty :=
    State.Empty.onlyRecords (s := s.outOfReset.recovered) ⟨h.quiet, h.ledger, h.jobs, h.closed, h.basic⟩ hrec
  obtain ⟨-, hexit, -, -⟩ := hend.quiet
  exact ⟨_, hrec, by rw [hexec, State.exitGoesOn_none hexit, done_quiet hend.quiet]⟩

/-! ## Resets of every domain, and the boot -/

/-- What a boot keeps: memory and Ledger, the address, the strap, the lifecycle state and the anti-rollback count, and that nothing waits (R681). -/
structure State.BootKeeps (s t : State) : Prop where
  dram : t.dram = s.dram
  ledger : t.ledger = s.ledger
  id : t.dev.id = s.dev.id
  bootsel : t.sec.bootsel = s.sec.bootsel
  lc : t.sec.lc = s.sec.lc
  svf : t.sec.svf = s.sec.svf
  quiet : s.Quiet → t.Quiet

/-- The boot from a state has ended: an ACTIVE part runs under the EPOCH after the one stored (R490). -/
structure State.Booted (s t : State) : Prop where
  pstate : t.dev.pstate = psActive
  stored : t.sec.storedEpoch = t.dev.epoch
  epoch : t.dev.epoch = if s.sec.storedEpoch + 1 = 0 then 1 else s.sec.storedEpoch + 1

theorem State.BootKeeps.trans (h : s.BootKeeps t) (k : t.BootKeeps u) : s.BootKeeps u :=
  ⟨k.dram.trans h.dram, k.ledger.trans h.ledger, k.id.trans h.id, k.bootsel.trans h.bootsel, k.lc.trans h.lc, k.svf.trans h.svf,
    k.quiet ∘ h.quiet⟩

theorem State.dropLines_eq (s : State) (a n : Nat) : ∃ sl, s.dropLines a n = { s with slices := sl } := by
  unfold State.dropLines
  split <;> exact ⟨_, rfl⟩

theorem State.storeProgrammed_eq (s : State) : ∃ sl, s.storeProgrammed = { s with slices := sl } := by
  obtain ⟨sl, heq⟩ := s.dropLines_eq (flashBase + 0x4000000) 0x100000
  obtain ⟨sl', heq'⟩ := (s.dropLines (flashBase + 0x4000000) 0x100000).dropLines_eq (flashBase + 0x14000000) 0x100000
  exact ⟨sl', by rw [State.storeProgrammed, heq', heq]⟩

theorem State.stage1_boots (s : State) (slot : Nat) (f : Nat → Byte) : s.BootKeeps (s.stage1 slot f) ∧ s.Booted (s.stage1 slot f) := by
  delta State.stage1
  extract_lets e measured programmed named recorded
  obtain ⟨sl, hprogrammed⟩ : ∃ sl, programmed = { measured with slices := sl } := measured.storeProgrammed_eq
  have hrecorded : named.OnlyRecords recorded := .record ..
  clear_value recorded programmed
  subst hprogrammed
  obtain ⟨_, _, _, _, _, _, rfl⟩ := hrecorded
  exact ⟨⟨rfl, rfl, rfl, rfl, rfl, rfl, id⟩, rfl, rfl, rfl⟩

theorem State.boot_boots (hb : s.dev.bootok = false) : s.BootKeeps s.boot ∧ (s.boot.dev.bootok = true → s.Booted s.boot) := by
  have hstage : ∀ (slot : Nat) (f : Nat → Byte) (d : Dev), d.id = s.dev.id → d.retryDue = s.dev.retryDue →
      s.BootKeeps (({ s with dev := d } : State).stage1 slot f) ∧
        ((({ s with dev := d } : State).stage1 slot f).dev.bootok = true → s.Booted (({ s with dev := d } : State).stage1 slot f)) := by
    intro slot f d hid hretry
    obtain ⟨hkeeps, hbooted⟩ := State.stage1_boots { s with dev := d } slot f
    have hdev : s.BootKeeps { s with dev := d } := ⟨rfl, rfl, hid, rfl, rfl, rfl, fun ⟨h1, h2, h3, h4⟩ => ⟨h1, h2, h3, hretry.trans h4⟩⟩
    exact ⟨hdev.trans hkeeps, fun _ => ⟨hbooted.pstate, hbooted.stored, hbooted.epoch⟩⟩
  unfold State.boot
  split
  · exact ⟨⟨rfl, rfl, rfl, rfl, rfl, rfl, id⟩, fun h => absurd (hb.symm.trans h) (by decide)⟩
  · dsimp only
    split
    · exact hstage _ _ _ rfl rfl
    · split
      · exact hstage _ _ _ rfl rfl
      · exact ⟨⟨rfl, rfl, rfl, rfl, rfl, rfl, id⟩, fun h => absurd (hb.symm.trans h) (by decide)⟩

/-- What a reset of every domain leaves: the fuses, the strap, the address, the supplies, and nothing that waits (R772). -/
structure State.ColdReset (s t : State) : Prop where
  cold : t.dram = [] ∧ t.ledger = [] ∧ t.dev.bootok = false ∧ t.Quiet
  kept : t.dev.id = s.dev.id ∧ t.sec.bootsel = s.sec.bootsel ∧ t.sec.lc = s.sec.lc ∧ t.sec.svf = s.sec.svf ∧
    t.sec.storedEpoch = s.sec.storedEpoch
  supplies : t.power.inhibit = s.power.inhibit ∧ t.power.brownout = s.power.brownout

theorem State.coldReset_resets (s : State) : s.ColdReset s.coldReset := by
  have hcut : ∃ bk fr, s.cutErase = { s with book := bk, fresh := fr } := by
    unfold State.cutErase
    split <;> exact ⟨_, _, rfl⟩
  obtain ⟨_, _, heq⟩ := hcut
  unfold State.coldReset
  rw [heq]
  exact ⟨⟨rfl, rfl, rfl, rfl, rfl, rfl, rfl⟩, ⟨rfl, rfl, rfl, rfl, rfl⟩, rfl, rfl⟩

theorem State.countPowerUp_keeps (s : State) : s.BootKeeps s.countPowerUp ∧ s.countPowerUp.sec.storedEpoch = s.sec.storedEpoch ∧
    s.countPowerUp.dev.bootok = s.dev.bootok := by
  unfold State.countPowerUp
  split
  · dsimp only
    split <;> exact ⟨⟨rfl, rfl, rfl, rfl, rfl, rfl, id⟩, rfl, rfl⟩
  · exact ⟨⟨rfl, rfl, rfl, rfl, rfl, rfl, id⟩, rfl, rfl⟩

/-- PORST_N asserted outside a flush and an erase resets every domain; only the Parish Book region stays besides what is fused (R772). -/
theorem exec_porstNAsserted (hf : s.book.flushing = false) : exec .porstNAsserted s = .next s.coldReset := by
  have hquiet : s.coldReset.Quiet := s.coldReset_resets.cold.2.2.2
  change execPorstNAsserted s = _
  simp only [execPorstNAsserted, hf, Bool.false_and, Bool.false_eq_true, if_false]
  exact done_quiet hquiet

/-- A part whose supplies are good resets and boots (R681). -/
theorem State.resetBoot_powered (hi : s.power.inhibit = false) (hbo : s.power.brownout = false) :
    s.coldReset.BootKeeps s.resetBoot ∧ (s.resetBoot.dev.bootok = true → s.coldReset.Booted s.resetBoot) := by
  obtain ⟨⟨-, -, hboot, -⟩, -, hinh, hbrown⟩ := s.coldReset_resets
  have heq : s.resetBoot = s.coldReset.countPowerUp.boot := by
    simp [State.resetBoot, hinh, hbrown, hi, hbo]
  obtain ⟨hcount, hepoch, hok⟩ := s.coldReset.countPowerUp_keeps
  obtain ⟨hkeeps, hbooted⟩ := State.boot_boots (hok.trans hboot)
  rw [heq]
  refine ⟨hcount.trans hkeeps, fun h => ?_⟩
  obtain ⟨hps, hstored, hnext⟩ := hbooted h
  exact ⟨hps, hstored, by rw [hnext, hepoch]⟩

/-- The straps are taken as PORST_N is released, after a flush under way has ended. -/
def State.strapped (s : State) (bs : BitVec 2) (da : BitVec 6) : State :=
  (((State.programAll (s.book.buf.length + 1) s).modSec fun c => { c with bootsel := bs }).modDev fun d => { d with id := da }).modPower
    fun p => { p with lastbo := p.brownout }

theorem State.strapped_fields (s : State) (bs : BitVec 2) (da : BitVec 6) :
    ((s.strapped bs da).dev.id = da ∧ (s.strapped bs da).sec.bootsel = bs) ∧
      ((s.strapped bs da).sec.lc = s.sec.lc ∧ (s.strapped bs da).sec.svf = s.sec.svf ∧
        (s.strapped bs da).sec.storedEpoch = s.sec.storedEpoch) ∧
      (s.strapped bs da).power.inhibit = s.power.inhibit ∧ (s.strapped bs da).power.brownout = s.power.brownout := by
  have hflush := State.OnlyRecords.programAll (s.book.buf.length + 1) s
  unfold State.strapped
  generalize State.programAll (s.book.buf.length + 1) s = u at hflush
  obtain ⟨_, _, _, _, _, _, rfl⟩ := hflush
  exact ⟨⟨rfl, rfl⟩, ⟨rfl, rfl, rfl⟩, rfl, rfl⟩

/-- PORST_N released takes the straps and boots a part whose supplies are good (R681, R772). -/
theorem exec_porstN (bs : BitVec 2) (da : BitVec 6) (hi : (s.strapped bs da).power.inhibit = false)
    (hbo : (s.strapped bs da).power.brownout = false) : exec (.porstN bs da) s = .next (s.strapped bs da).resetBoot := by
  obtain ⟨hkeeps, -⟩ := State.resetBoot_powered hi hbo
  exact done_quiet (hkeeps.quiet (s.strapped bs da).coldReset_resets.cold.2.2.2)

/-! ## The statement -/

theorem irqRecov_survives (a b : BitVec 11) : (a ||| irqRecov ||| b) &&& irqRecov ≠ 0 := by
  intro h
  have hbit := congrArg (fun x : BitVec 11 => x.getLsbD 7) h
  simp [irqRecov] at hbit

/-- Settles O53, each reset by its own lemma above. -/
theorem resetsKeepAndLose : Obligations.ResetsKeepAndLose := by
  refine ⟨fun s c hq hh hwf hr hps hbo ht hb hl => ?warm, fun s hq hh hr hbo hps ht hl hm hj hen hbasic => ?recovery,
    fun s hf he => ?asserted, fun bs da s hi hbo => ?released⟩
  case warm =>
    obtain ⟨-, -, hinj, -⟩ := hh
    obtain ⟨-, hexit, hopening, hretry⟩ := hq
    have hw := State.warmReset_active c hinj hps hb hl
    obtain ⟨hdram, hledger, hmirror, hjobs, hexit', hopening', hretry'⟩ := hw.jobs
    have hend : exec .warmReset s = .next (s.warmReset c) := by
      rw [exec_warmReset hr hps hbo ht, done,
        State.settle_inReset hw.inReset (hexit'.trans hexit) (hopening'.trans hopening) (hretry'.trans hretry)]
    exact ⟨_, hend, hdram, hledger, hmirror, hjobs, hw.eng hwf, hw.slots, hw.windows, hw.recovering, hw.rdone, hw.halted, hw.wrstReq,
      hw.session⟩
  case recovery =>
    have hup : s.dramUp = true := by simp [State.dramUp, hbo, ht, hps]
    obtain ⟨t, ⟨_, _, _, _, _, iq, rfl⟩, hend⟩ := recovery_empty ⟨hq, hl, hj, hen, hbasic⟩ hm hh hr hup
    refine ⟨_, hend, rfl, rfl, rfl, rfl, ?irq, rfl, hl⟩
    exact irqRecov_survives _ iq
  case asserted =>
    have hcut : s.cutErase = s := by simp [State.cutErase, he]
    refine ⟨_, exec_porstNAsserted hf, ?_⟩
    rw [State.coldReset, hcut]
    exact ⟨rfl, rfl, rfl, rfl, rfl, rfl, rfl, rfl, rfl, rfl, rfl, rfl, rfl, rfl⟩
  case released =>
    obtain ⟨⟨hid, hsel⟩, ⟨hlc, hsvf, hstored⟩, hinh, hbrown⟩ := s.strapped_fields bs da
    rw [hi] at hinh
    rw [hbo] at hbrown
    obtain ⟨⟨hdram, hledger, -, -⟩, ⟨hid', hsel', hlc', hsvf', hstored'⟩, -⟩ := (s.strapped bs da).coldReset_resets
    obtain ⟨hkeeps, hbooted⟩ := State.resetBoot_powered hinh hbrown
    refine ⟨_, exec_porstN bs da hinh hbrown, hkeeps.id.trans (hid'.trans hid), hkeeps.bootsel.trans (hsel'.trans hsel),
      hkeeps.dram.trans hdram, hkeeps.ledger.trans hledger, hkeeps.lc.trans (hlc'.trans hlc), hkeeps.svf.trans (hsvf'.trans hsvf),
      fun hok => ?_⟩
    obtain ⟨hps, hepoch, hnext⟩ := hbooted hok
    rw [hstored', hstored] at hnext
    exact ⟨hps, hepoch, hnext⟩

end Sys2Proof.Machine
end
